-- ==== Sys2Proof/Word.lean ====
section
/-! DEFINITION. The word types of the block and their plainest arithmetic: command words and frame registers are 32 bits
(R10, R40), the end byte is 8 bits (R13), a duration is 13 bits (R6, R30). All values are unsigned (R69). -/

namespace Sys2Proof

/-- A command word, a header word, a state word or a value on the register read port. -/
abbrev Word := BitVec 32

/-- An end byte, a command byte or a checksum. -/
abbrev Byte := BitVec 8

/-- A duration on the pulse port, in microseconds (R6 `DUR_BITS`, R83). -/
abbrev Duration := BitVec 13

end Sys2Proof
end

