-- ==== Sys2Proof/Syntax.lean ====
section
/-! DEFINITION. The operations of spec/opcode_table.json as typed syntax. Operands are the enums of R46, not raw selectors:
the source calls them "enum-typed and therefore always in range by construction" (R46, R100). `TEMP` and `CMD` are plain
numbers, of which every value is a legal encoding (R47, R48). -/

namespace Sys2Proof

/-- The addressed indoor unit (R46 `UNIT`). -/
inductive AcUnit where
  | a | b
  deriving DecidableEq, Repr

/-- The operating mode (R46 `MODE`). -/
inductive AcMode where
  | auto | cooling | drying | heating | powerOff
  deriving DecidableEq, Repr

/-- The fan setting (R46 `FAN`). -/
inductive FanSpeed where
  | auto | speed1 | speed2 | speed3 | speed4 | speed5
  deriving DecidableEq, Repr

/-- The special power mode (R46 `SPECIAL`); `noSpecial` is the spec's `None`. -/
inductive SpecialMode where
  | noSpecial | hiPower | eco
  deriving DecidableEq, Repr

/-- One operation, one constructor per row of the opcode table (R45). The operands of `mft` stand in the order of R65:
unit, mode, special mode, fan, temperature. -/
inductive Instr where
  | mft (unit : AcUnit) (mode : AcMode) (special : SpecialMode) (fan : FanSpeed) (temp : BitVec 8)
  | fix (unit : AcUnit)
  | swing (unit : AcUnit)
  | hdr (cmd : BitVec 16)
  | send
  deriving DecidableEq, Repr

end Sys2Proof
end

