-- ==== Sys2Proof/WellFormed.lean ====
section
/-! DEFINITION. Which command words are well formed, read from the four format tables R41 to R44 and the rule R49, field by
field. It does not use the masks of R45 that the decoder uses: that the two agree is a statement. A term of `Instr` has no
ill-formed case (R46: enum operands are in range by construction; R47, R48: every `TEMP` and every `CMD` is legal), so the
check is on words. -/

namespace Sys2Proof

/-- `w[hi:lo]` with `len = hi - lo + 1` as a number (00_scope.md section 5.1). -/
def wordField (lo len : Nat) (w : Word) : Nat := (w.extractLsb' lo len).toNat

/-- R49 (a): `OP` is one of the five assigned opcodes. -/
def opcodeAssigned (w : Word) : Bool := 1 ≤ wordField 28 4 w && wordField 28 4 w ≤ 5

/-- R49 (b): the must-be-zero bits of the word's format are zero (R41 to R44). -/
def reservedBitsZero (w : Word) : Bool :=
  match wordField 28 4 w with
  | 1 => wordField 25 3 w == 0 && wordField 23 1 w == 0 && wordField 19 1 w == 0 && wordField 10 6 w == 0
  | 2 | 3 => wordField 25 3 w == 0 && wordField 0 24 w == 0
  | 4 => wordField 16 12 w == 0
  | 5 => wordField 0 28 w == 0
  | _ => true

/-- R49 (c): an `MFT` word has no reserved selector (R41, R46). -/
def selectorsNamed (w : Word) : Bool :=
  match wordField 28 4 w with
  | 1 => wordField 20 3 w ≤ 4 && wordField 16 3 w ≤ 5 && wordField 8 2 w ≤ 2
  | _ => true

/-- The word is legal: none of R49 (a), (b), (c) holds. -/
def wordLegal (w : Word) : Bool := opcodeAssigned w && reservedBitsZero w && selectorsNamed w

end Sys2Proof
end

