-- ==== Sys2Proof/Decode.lean ====
section
/-! DEFINITION. The decoder of R45 and R49, total on all 2^32 words, and the encoder. The decoder tests the word against the
five match and mask rows of the opcode table; an illegal word is rejected under the name of the clause of R49 it falls under
(log 12: the name is the model's own, every illegal word has the one effect of R103). -/

namespace Sys2Proof

/-- Why a word decodes to no operation: the three clauses of R49. -/
inductive IllegalWord where
  /-- R49 (a): `OP` is 0x0 or 0x6..0xF. -/
  | reservedOpcode
  /-- R49 (b): a must-be-zero bit of the format is one. -/
  | mustBeZero
  /-- R49 (c): an `MFT` word whose `MODE`, `FAN` or `SPECIAL` names no enum value. -/
  | reservedSelector
  deriving DecidableEq, Repr

/-- One row of the opcode map (R45). -/
structure OpcodeRow where
  /-- The bits a matching word has under the mask. -/
  matchBits : Word
  /-- Which bits are tested. -/
  mask : Word
  deriving DecidableEq, Repr

def mftRow : OpcodeRow := ⟨0x10000000#32, 0xFE88FC00#32⟩
def fixRow : OpcodeRow := ⟨0x20000000#32, 0xFEFFFFFF#32⟩
def swingRow : OpcodeRow := ⟨0x30000000#32, 0xFEFFFFFF#32⟩
def hdrRow : OpcodeRow := ⟨0x40000000#32, 0xFFFF0000#32⟩
def sendRow : OpcodeRow := ⟨0x50000000#32, 0xFFFFFFFF#32⟩

/-- The opcode map in the table's order (R45). -/
def opcodeRows : List OpcodeRow := [mftRow, fixRow, swingRow, hdrRow, sendRow]

/-- `(w & mask) = match` (R45). -/
def OpcodeRow.matches (r : OpcodeRow) (w : Word) : Bool := w &&& r.mask == r.matchBits

/-- The row of an operation. -/
def Instr.row : Instr → OpcodeRow
  | .mft .. => mftRow
  | .fix _ => fixRow
  | .swing _ => swingRow
  | .hdr _ => hdrRow
  | .send => sendRow

/-! ### Selectors (R46) -/

def AcUnit.selector : AcUnit → BitVec 1
  | .a => 0#1
  | .b => 1#1

def AcMode.selector : AcMode → BitVec 3
  | .auto => 0#3
  | .cooling => 1#3
  | .drying => 2#3
  | .heating => 3#3
  | .powerOff => 4#3

def FanSpeed.selector : FanSpeed → BitVec 3
  | .auto => 0#3
  | .speed1 => 1#3
  | .speed2 => 2#3
  | .speed3 => 3#3
  | .speed4 => 4#3
  | .speed5 => 5#3

def SpecialMode.selector : SpecialMode → BitVec 2
  | .noSpecial => 0#2
  | .hiPower => 1#2
  | .eco => 2#2

def AcUnit.ofSelector (b : BitVec 1) : AcUnit := if b = 0#1 then .a else .b

/-- `MODE` 5, 6, 7 are reserved (R46). -/
def AcMode.ofSelector (b : BitVec 3) : Option AcMode :=
  match b.toNat with
  | 0 => some .auto
  | 1 => some .cooling
  | 2 => some .drying
  | 3 => some .heating
  | 4 => some .powerOff
  | _ => none

/-- `FAN` 6, 7 are reserved (R46). -/
def FanSpeed.ofSelector (b : BitVec 3) : Option FanSpeed :=
  match b.toNat with
  | 0 => some .auto
  | 1 => some .speed1
  | 2 => some .speed2
  | 3 => some .speed3
  | 4 => some .speed4
  | 5 => some .speed5
  | _ => none

/-- `SPECIAL` 3 is reserved (R46). -/
def SpecialMode.ofSelector (b : BitVec 2) : Option SpecialMode :=
  match b.toNat with
  | 0 => some .noSpecial
  | 1 => some .hiPower
  | 2 => some .eco
  | _ => none

/-! ### The decoder -/

/-- The operands of a word that matches the `MFT` row (R41). -/
def decodeMft (w : Word) : Except IllegalWord Instr :=
  match AcMode.ofSelector (w.extractLsb' 20 3), SpecialMode.ofSelector (w.extractLsb' 8 2),
      FanSpeed.ofSelector (w.extractLsb' 16 3) with
  | some m, some sp, some f =>
    .ok (.mft (AcUnit.ofSelector (w.extractLsb' 24 1)) m sp f (w.extractLsb' 0 8))
  | _, _, _ => .error .reservedSelector

/-- The operation a command word stands for, or the clause of R49 that makes it illegal (R45, R49). -/
def decode (w : Word) : Except IllegalWord Instr :=
  if mftRow.matches w then decodeMft w
  else if fixRow.matches w then .ok (.fix (AcUnit.ofSelector (w.extractLsb' 24 1)))
  else if swingRow.matches w then .ok (.swing (AcUnit.ofSelector (w.extractLsb' 24 1)))
  else if hdrRow.matches w then .ok (.hdr (w.extractLsb' 0 16))
  else if sendRow.matches w then .ok .send
  else if opcodeAssigned w then .error .mustBeZero
  else .error .reservedOpcode

/-- The instruction the decoder reads from the table's word of `nbits` bits, bits above them zero. A command word is a
32-bit number with no byte order (R33 (e)), so the number is the word. -/
def decodeTableWord (nbits w : Nat) : Option Instr :=
  (decode (BitVec.ofNat 32 (w % 2 ^ nbits))).toOption

/-! ### The encoder, from the format tables R41 to R44 -/

/-- The command word of an operation. -/
def encode : Instr → Word
  | .mft u m sp f t =>
    0b0001#4 ++ 0#3 ++ u.selector ++ 0#1 ++ m.selector ++ 0#1 ++ f.selector ++ 0#6 ++ sp.selector ++ t
  | .fix u => 0b0010#4 ++ 0#3 ++ u.selector ++ 0#24
  | .swing u => 0b0011#4 ++ 0#3 ++ u.selector ++ 0#24
  | .hdr c => 0b0100#4 ++ 0#12 ++ c
  | .send => 0b0101#4 ++ 0#28

end Sys2Proof
end

