-- ==== Sys2Proof/Machine/State.lean ====
section
/-! DEFINITION. The state of the block (R10), the host beside it (R18, 10_state.md section 1) and the model's record of
events (R23), as plain data; the reasons a step could stop; the state after reset (R22). -/

namespace Sys2Proof.Machine

/-- The level of a slot: `MARK` transmitter on, `SPACE` transmitter off (R83). -/
inductive Level where
  | space | mark
  deriving DecidableEq, Repr

/-- One slot on the pulse port (R30, R83). -/
structure Pulse where
  level : Level
  dur : Duration
  deriving DecidableEq, Repr

/-- The three parts of a frame, each with its value (R20). -/
structure Frame where
  hdr : Word
  stw : Word
  endb : Byte
  deriving DecidableEq, Repr

/-- The outcome of the most recently accepted command word, `STATUS.ERR` (R16). The codes 5, 6, 7 are never produced, so
they are no values here (log 9). -/
inductive ErrCode where
  /-- `ERR_NONE`: the command succeeded. -/
  | errNone
  /-- `ERR_INVALID_COMMAND` (R101). -/
  | invalidCommand
  /-- `ERR_TEMP_RANGE` (R102). -/
  | tempRange
  /-- `ERR_ILLEGAL_WORD` (R103). -/
  | illegalWord
  /-- `ERR_NO_FRAME` (R104). -/
  | noFrame
  deriving DecidableEq, Repr

/-- What the host chooses before a step (10_state.md section 1, R120). DESIGN CHOICE, log 1: the host's freedom is a list of
these in the state. -/
inductive HostMove where
  /-- Neither a read nor a reset: the serializer moves while `BUSY = 1`, else the presented word is accepted. -/
  | proceed
  /-- Read register `i` through the read port (R31). -/
  | read (i : BitVec 2)
  /-- Reset the block (R120). -/
  | reset
  deriving DecidableEq, Repr

/-- What the model records of a run (R23, R128). -/
inductive Event where
  /-- The block accepted the word and left this `STATUS.ERR`. -/
  | accepted (w : Word) (err : ErrCode)
  /-- The serializer emitted the slot (R83). -/
  | emitted (p : Pulse)
  /-- The host read register `i` and got `v` (R31). -/
  | readBack (i : BitVec 2) (v : Word)
  /-- The host reset the block (R120). -/
  | wasReset
  deriving DecidableEq, Repr

/-- Nothing stops this machine: a failing command is rejected and the next word is accepted as usual (R106), reads never
fail (R31), the serializer has no error conditions (R85). So there is no constructor. -/
inductive Fault where
  deriving DecidableEq, Repr

/-- Every word has its effect, an illegal word too (R49, R103). -/
inductive Refusal where
  /-- Only for an arm of `exec` without a meaning; no arm uses it. Safe. -/
  | notModelled (mnemonic : String)
  deriving DecidableEq, Repr

/-- The whole machine. `hdr` to `slot` are the block (R10); `program`, `pc`, `moves` are the host (R18, log 1); `draws` and
`history` are the model's own (log 3, R23). -/
structure State where
  /-- `HDR`; `none` is NOVALUE (R11, R14). -/
  hdr : Option Word
  /-- `STW`; `none` is NOVALUE (R12, R14). -/
  stw : Option Word
  /-- `ENDB`; `none` is NOVALUE (R13, R14). -/
  endb : Option Byte
  /-- `STATUS.HV` (R15). -/
  hv : Bool
  /-- `STATUS.FV` (R15). -/
  fv : Bool
  /-- `STATUS.BUSY` (R15). -/
  busy : Bool
  /-- `STATUS.ERR` (R15, R16). -/
  err : ErrCode
  /-- `SLOT`, values 0..146 of an 8-bit counter (R17; DESIGN CHOICE, log 5). -/
  slot : Fin 147
  /-- The host's finite list of command words (R18). -/
  program : List Word
  /-- The host's index of the word presented next (R18). -/
  pc : Nat
  /-- The host's next choices; when none is left the host lets the block proceed (log 1). -/
  moves : List HostMove
  /-- How many arbitrary values have been drawn (log 3). -/
  draws : Nat
  /-- The events so far, oldest first (R23). -/
  history : List Event
  deriving DecidableEq, Repr

/-- The machine right after reset (R22), with an idle host that holds no program (log 2). -/
def State.reset : State where
  hdr := none
  stw := none
  endb := none
  hv := false
  fv := false
  busy := false
  err := .errNone
  slot := 0
  program := []
  pc := 0
  moves := []
  draws := 0
  history := []

end Sys2Proof.Machine
end

