-- ==== Sys2Proof/Machine/Flags.lean ====
section
/-! DEFINITION. The register `STATUS` as the host reads it (R15, R16). The flags themselves are fields of State; which
command writes which flag stands in `commit`, `reject`, `setHeader` and `startTrain` (Machine/Ops.lean). -/

namespace Sys2Proof.Machine

/-- R16. -/
def ErrCode.code : ErrCode → BitVec 3
  | .errNone => 0#3
  | .invalidCommand => 1#3
  | .tempRange => 2#3
  | .illegalWord => 3#3
  | .noFrame => 4#3

/-- R15: `HV` in bit 0, `FV` in bit 1, `BUSY` in bit 2, bit 3 zero, `ERR` in bits [6:4], bits [31:7] zero. -/
def State.status (s : State) : Word :=
  0#25 ++ s.err.code ++ 0#1 ++ BitVec.ofBool s.busy ++ BitVec.ofBool s.fv ++ BitVec.ofBool s.hv

end Sys2Proof.Machine
end

