-- ==== Sys2Proof/Config.lean ====
section
/-! DEFINITION. What the spec leaves open: the six protocol codes of R5 (D15, D16, U7) and the value read from a register
that holds NOVALUE (R14, U10). Each is opaque with no body, so a statement proved of the model holds for every value the
spec allows. The numbers the spec does give (R4, R5) stand in Machine/Protocol.lean. The wrapper widths of R6 are types:
a command word is `BitVec 32`, `CMD` `BitVec 16`, `TEMP` `BitVec 8`, a duration `BitVec 13`, a register number `BitVec 2`. -/

namespace Sys2Proof

/-- FREE VALUE (R5, D15, log 6). The codes of Auto, Cooling, Drying and Heating are the images of 0, 1, 2 and 3. A
permutation of the seven codes 0..6 is exactly a choice of four pairwise distinct codes, none of them 7 (and of three
unused ones): every choice R5 allows is one, and no other is. -/
opaque Config.openModeCodes : Equiv.Perm (Fin 7)

/-- FREE VALUE (R5, D16, log 6). The literal codes of HiPower and Eco are the images of 0 and 1: two different bytes, and
nothing more is known of them. -/
opaque Config.openSpecialCodes : Equiv.Perm (Fin 256)

/-- FREE VALUE (R14, U10, log 3). What the n-th read of a register holding NOVALUE returns: any 32-bit value, possibly
different on each read. -/
opaque Config.noValueRead : Nat → Word

end Sys2Proof
end

