-- ==== Sys2Proof/Machine/Protocol.lean ====
section
/-! DEFINITION. The protocol constants of R4 and the code tables of R5, each under its own name (D26: the literals are
unaudited, so every one is a named definition; UNVERIFIED, log 7). -/

namespace Sys2Proof.Machine.Protocol

def hdrPrefix : Word := 0xF20D0000#32
def familyMft : Byte := 0x03#8
def familyFixSwing : Byte := 0x01#8
/-- `CMD_MAX` at the width of the `CMD` field (R48). -/
def cmdMax : BitVec 16 := 0xFF#16
def tempMin : Byte := 17#8
def tempMax : Byte := 30#8
def specialFlagNormal : BitVec 4 := 1#4
def specialFlagSpecial : BitVec 4 := 9#4
def stateFix : Word := 0x21002100#32
def stateSwing : Word := 0x21042500#32
def endSentinel : Byte := 0x60#8
def tHdrMark : Duration := 4496#13
def tHdrSpace : Duration := 4414#13
def tBitMark : Duration := 591#13
def tOneSpace : Duration := 1643#13
def tZeroSpace : Duration := 591#13
def tTrailMark : Duration := 600#13
/-- `FRAME_BITS`: 32 + 32 + 8. -/
def frameBits : Nat := 72
/-- The number of the last slot, `TRAIN_SLOTS - 1` (C5: a train has 147 slots). -/
def lastSlot : Nat := 146

/-- R5, D14: A = 0, B = 1. -/
def unitCode : AcUnit → BitVec 1
  | .a => 0#1
  | .b => 1#1

/-- R5: PowerOff is 7; the other four are open (D15, log 6). -/
def modeCode : AcMode → BitVec 3
  | .auto => BitVec.ofNat 3 (Config.openModeCodes 0).val
  | .cooling => BitVec.ofNat 3 (Config.openModeCodes 1).val
  | .drying => BitVec.ofNat 3 (Config.openModeCodes 2).val
  | .heating => BitVec.ofNat 3 (Config.openModeCodes 3).val
  | .powerOff => 7#3

/-- R5, D13: Auto is 0 and Speed k is k + 1; the codes 1 and 7 are unused (C2, log 8). -/
def fanCode : FanSpeed → BitVec 3
  | .auto => 0#3
  | .speed1 => 2#3
  | .speed2 => 3#3
  | .speed3 => 4#3
  | .speed4 => 5#3
  | .speed5 => 6#3

/-- R5: None has no code; the codes of HiPower and Eco are open (D16, log 6). -/
def specialCode : SpecialMode → Option Byte
  | .noSpecial => none
  | .hiPower => some (BitVec.ofNat 8 (Config.openSpecialCodes 0).val)
  | .eco => some (BitVec.ofNat 8 (Config.openSpecialCodes 1).val)

end Sys2Proof.Machine.Protocol
end

