-- ==== Sys2Proof/Machine/Operands.lean ====
section
/-! DEFINITION. What the operations compute from their operands: bytes of a word, the XOR folds (R61), the command byte, the
header (R60), the state word and end byte of a mode/fan/temperature frame (R52, R65), and the 72-bit frame (R20). -/

namespace Sys2Proof.Machine

open Protocol

/-! ### Bytes, numbered from the most significant (R33 (a)) -/

def byte0 (w : Word) : Byte := w.extractLsb' 24 8
def byte1 (w : Word) : Byte := w.extractLsb' 16 8
def byte2 (w : Word) : Byte := w.extractLsb' 8 8
def byte3 (w : Word) : Byte := w.extractLsb' 0 8

/-- R61. -/
def xor3hi (w : Word) : Byte := byte0 w ^^^ byte1 w ^^^ byte2 w

/-- R61. -/
def xor4 (w : Word) : Byte := byte0 w ^^^ byte1 w ^^^ byte2 w ^^^ byte3 w

/-- R51: the unit in bit 4, the family id in the low nibble (C4). -/
def commandByte (u : AcUnit) (family : Byte) : Byte := ((unitCode u).setWidth 8 <<< 4) ||| family

/-- R60: the header word of a command value, or the document's `InvalidCommand`, tested before any packing. -/
def buildHeader (c : BitVec 16) : Except ErrCode Word :=
  if cmdMax < c then .error .invalidCommand
  else
    let h : Word := hdrPrefix ||| (c.setWidth 32 <<< 8)
    .ok (h ||| (xor3hi h).setWidth 32)

/-- R102: outside 17..30. -/
def tempOutOfRange (t : Byte) : Bool := t < tempMin || tempMax < t

/-- R65. -/
def specialFlag (sp : SpecialMode) : BitVec 4 :=
  match sp with
  | .noSpecial => specialFlagNormal
  | .hiPower | .eco => specialFlagSpecial

/-- The state word of R65 from its four fields; the masks are the source's (C10). -/
def packState (flag : BitVec 4) (t : Byte) (fan mode : BitVec 3) : Word :=
  (flag.setWidth 32 <<< 24)
    ||| (((t - tempMin) &&& 0xF#8).setWidth 32 <<< 20)
    ||| ((fan.setWidth 32 &&& 0x1F#32) <<< 13)
    ||| ((mode.setWidth 32 &&& 0x1F#32) <<< 8)

/-- R65: the state word of a mode/fan/temperature frame. -/
def mftState (m : AcMode) (sp : SpecialMode) (f : FanSpeed) (t : Byte) : Word :=
  packState (specialFlag sp) t (fanCode f) (modeCode m)

/-- R65: the checksum of the state word, or the special mode's literal code. -/
def mftEnd (sp : SpecialMode) (stateWord : Word) : Byte :=
  match specialCode sp with
  | none => xor4 stateWord
  | some code => code

/-- R20: `FRAME = HDR ++ STW ++ ENDB`, 72 bits. -/
def Frame.bits (f : Frame) : BitVec 72 := f.hdr ++ f.stw ++ f.endb

end Sys2Proof.Machine
end

