-- ==== Sys2Proof/Machine/Ops.lean ====
section
/-! DEFINITION. The named operations on the state: the hold of a busy block (R63, R122), Commit (R62), Reject (R106), the
header write of R64, the start of a train (R81), the register read (R31, R14) and the reset event (R120). There is no memory
(R30). Rejecting a command is this hardware's exception: `reject` is its whole entry, and there is no return (R107). -/

namespace Sys2Proof.Machine

/-- R63, R122: a word takes effect only while `BUSY = 0`; while `BUSY = 1` it is held and no state changes (log 10). -/
def whenAccepting (effect : State → State) (s : State) : Host.Outcome State Fault Refusal :=
  .next (if s.busy then s else effect s)

/-- R62 `Commit`. -/
def commit (f : Frame) (s : State) : State :=
  { s with hdr := some f.hdr, stw := some f.stw, endb := some f.endb, hv := true, fv := true, err := .errNone }

/-- R106 `Reject(code)`: the frame registers hold no value and the code is recorded; nothing else changes. -/
def reject (code : ErrCode) (s : State) : State :=
  { s with hdr := none, stw := none, endb := none, hv := false, fv := false, err := code }

/-- R64: a header alone, which is no frame. -/
def setHeader (h : Word) (s : State) : State :=
  { s with hdr := some h, stw := none, endb := none, hv := true, fv := false, err := .errNone }

/-- R81: the serializer starts at slot 0 on the frame held. -/
def startTrain (s : State) : State :=
  { s with busy := true, slot := 0, err := .errNone }

/-- R65 to R67: the header from the command byte, then Commit. A command value that `buildHeader` refuses rejects the
command: R101 keeps this check although no family id of today can fail it. -/
def buildAndCommit (command : Byte) (stateWord : Word) (endByte : Byte) (s : State) : State :=
  match buildHeader (command.setWidth 16) with
  | .error e => reject e s
  | .ok h => commit ⟨h, stateWord, endByte⟩ s

/-! ### The register read port (R31) -/

/-- What register `i` holds; `none` is NOVALUE. -/
def regValue (i : BitVec 2) (s : State) : Option Word :=
  match i.toNat with
  | 0 => s.hdr
  | 1 => s.stw
  | 2 => s.endb.map (BitVec.setWidth 32)
  | _ => some s.status

/-- R31: the read changes no state of the block and the value it returns is recorded. A register that holds NOVALUE returns
an arbitrary word (R14; FREE VALUE, log 3, log 4), and the next draw is another. -/
def readPort (i : BitVec 2) (s : State) : State :=
  match regValue i s with
  | some v => { s with history := s.history ++ [.readBack i v] }
  | none =>
    { s with draws := s.draws + 1, history := s.history ++ [.readBack i (Config.noValueRead s.draws)] }

/-! ### Reset (R120) -/

/-- Every piece of the block's state to its value of R22. The host's program, index and choices and the record of events
are not the block's and stay (R124; log 11). No slot is emitted. -/
def resetBlock (s : State) : State :=
  { s with hdr := none, stw := none, endb := none, hv := false, fv := false, busy := false, err := .errNone, slot := 0,
           history := s.history ++ [.wasReset] }

/-! ### Acceptance (R18, R128) -/

/-- The word at the host's index, if the list is not at its end (R18). -/
def presentedWord (s : State) : Option Word := s.program[s.pc]?

/-- After the word is accepted the host moves to its next one (R18), and the word is recorded with its ERR (R128). -/
def recordAccept (w : Word) (s : State) : State :=
  { s with pc := s.pc + 1, history := s.history ++ [.accepted w s.err] }

end Sys2Proof.Machine
end

