-- ==== Sys2Proof/Machine/FrameBuilder.lean ====
section
/-! DEFINITION. The Frame Builder's four operations (R64 to R67). -/

namespace Sys2Proof.Machine

open Protocol

/-- `MFT` (R65): the temperature is checked before anything is packed (R102). -/
def execMft (u : AcUnit) (m : AcMode) (sp : SpecialMode) (f : FanSpeed) (t : BitVec 8) (s : State) :
    Host.Outcome State Fault Refusal :=
  whenAccepting (fun s =>
    if tempOutOfRange t then reject .tempRange s
    else buildAndCommit (commandByte u familyMft) (mftState m sp f t) (mftEnd sp (mftState m sp f t)) s) s

/-- `FIX` (R66). -/
def execFix (u : AcUnit) (s : State) : Host.Outcome State Fault Refusal :=
  whenAccepting (buildAndCommit (commandByte u familyFixSwing) stateFix endSentinel) s

/-- `SWING` (R67). -/
def execSwing (u : AcUnit) (s : State) : Host.Outcome State Fault Refusal :=
  whenAccepting (buildAndCommit (commandByte u familyFixSwing) stateSwing endSentinel) s

/-- `HDR` (R64). -/
def execHdr (c : BitVec 16) (s : State) : Host.Outcome State Fault Refusal :=
  whenAccepting (fun s =>
    match buildHeader c with
    | .error e => reject e s
    | .ok h => setHeader h s) s

end Sys2Proof.Machine
end

