-- ==== Sys2Proof/Machine/PulseSerializer.lean ====
section
/-! DEFINITION. The Pulse Serializer: the slot map (R55), the pure function `serialize` (R80), the operation `SEND` (R81),
the serializer's step (R82, R83) and the text form (R56, R86). -/

namespace Sys2Proof.Machine

open Protocol

/-- Slot `k` of the train of `f` (R55), for `k` in 0..146. -/
def slotAt (f : BitVec 72) (k : Nat) : Pulse :=
  if k = 0 then ⟨.mark, tHdrMark⟩
  else if k = 1 then ⟨.space, tHdrSpace⟩
  else if k = lastSlot then ⟨.mark, tTrailMark⟩
  else if k % 2 = 0 then ⟨.mark, tBitMark⟩
  else ⟨.space, if f.getLsbD (71 - (k - 3) / 2) then tOneSpace else tZeroSpace⟩

/-- The mark and space of one bit (R54). -/
def bitPulses (b : Bool) : List Pulse :=
  [⟨.mark, tBitMark⟩, ⟨.space, if b then tOneSpace else tZeroSpace⟩]

/-- The train of a frame (R80): framing pair, 72 bits most significant first, trailing mark. -/
def serialize (f : BitVec 72) : List Pulse :=
  [⟨.mark, tHdrMark⟩, ⟨.space, tHdrSpace⟩]
    ++ (List.range frameBits).flatMap (fun i => bitPulses (f.getLsbD (71 - i)))
    ++ [⟨.mark, tTrailMark⟩]

/-- The sum of the durations of a train, were each slot to last its stated time (R127, for information). -/
def airTime (train : List Pulse) : Nat := (train.map fun p => p.dur.toNat).sum

/-- `SEND` (R81). -/
def execSend (s : State) : Host.Outcome State Fault Refusal :=
  whenAccepting (fun s => if s.fv then startTrain s else reject .noFrame s) s

/-- `FRAME` as the serializer reads it (R20, R82). No run reaches a busy state whose registers hold NOVALUE (R14); there the
missing parts are arbitrary values (FREE VALUE, log 4). -/
def frameRead (s : State) : BitVec 72 :=
  (s.hdr.getD (Config.noValueRead s.draws)) ++ (s.stw.getD (Config.noValueRead (s.draws + 1)))
    ++ (s.endb.getD ((Config.noValueRead (s.draws + 2)).setWidth 8))

/-- How many arbitrary values `frameRead` could use: none when the three registers hold values. -/
def frameDraws (s : State) : Nat :=
  if s.hdr.isSome && s.stw.isSome && s.endb.isSome then 0 else 3

/-- The serializer's step (R82): emit slot `SLOT`; after slot 146 `BUSY` and `SLOT` return to 0, else `SLOT` advances. -/
def serializerStep (s : State) : State :=
  let s' : State :=
    { s with draws := s.draws + frameDraws s, history := s.history ++ [.emitted (slotAt (frameRead s) s.slot.val)] }
  if s.slot.val = lastSlot then { s' with busy := false, slot := 0 }
  else { s' with slot := s.slot + 1 }

/-! ### The text form (R56, R86) -/

/-- The decimal digits of `n`, no leading zero; `fuel` bounds their number. -/
def decimalDigits (fuel n : Nat) : List Char :=
  match fuel with
  | 0 => []
  | fuel + 1 =>
    (if n < 10 then [] else decimalDigits fuel (n / 10)) ++ [Char.ofNat (48 + n % 10)]

/-- One token: the sign, the duration, one space (R56). A duration has at most 4 digits. -/
def renderPulse (p : Pulse) : List Char :=
  (match p.level with | .mark => '+' | .space => '-') :: decimalDigits 4 p.dur.toNat ++ [' ']

/-- The text of a list of slots (R86). -/
def render (train : List Pulse) : List Char := train.flatMap renderPulse

end Sys2Proof.Machine
end

