-- ==== Sys2Proof/Machine/Dispatch.lean ====
section
/-! DEFINITION. One arm per operation, each one call of its meaning (R63). -/

namespace Sys2Proof.Machine

def exec (i : Instr) (s : State) : Host.Outcome State Fault Refusal :=
  match i with
  | .mft u m sp f t => Sys2Proof.Machine.execMft u m sp f t s
  | .fix u => Sys2Proof.Machine.execFix u s
  | .swing u => Sys2Proof.Machine.execSwing u s
  | .hdr c => Sys2Proof.Machine.execHdr c s
  | .send => Sys2Proof.Machine.execSend s

end Sys2Proof.Machine
end

