-- ==== Sys2Proof/Machine/Accept.lean ====
section
/-! DEFINITION. What one step of the machine does, around `exec`: accepting a word (R63), letting the block proceed (R82,
R122), and the host's moves (R31, R120). Machine/Step.lean only calls it. -/

namespace Sys2Proof.Machine

/-- `Accept(cw)` (R63): decode, execute, and record the word with its outcome. An illegal word is rejected (R103). -/
def acceptWord (w : Word) (s : State) : Host.Outcome State Fault Refusal :=
  match decode w with
  | .error _ => .next (recordAccept w (reject .illegalWord s))
  | .ok i =>
    match exec i s with
    | .next t => .next (recordAccept w t)
    | .fault r => .fault r
    | .refused r => .refused r

/-- The block's own move: the serializer's step while `BUSY = 1`, during which a presented word is held (R122); else the
acceptance of the presented word; else nothing, since an idle block waits for the host (R111; DESIGN CHOICE, log 13). -/
def proceed (s : State) : Host.Outcome State Fault Refusal :=
  if s.busy then .next (serializerStep s)
  else
    match presentedWord s with
    | some w => acceptWord w s
    | none => .next s

/-- One move of the host (10_state.md section 1). -/
def hostMove (m : HostMove) (s : State) : Host.Outcome State Fault Refusal :=
  match m with
  | .proceed => proceed s
  | .read i => .next (readPort i s)
  | .reset => .next (resetBlock s)

/-- The next move of the host is taken off its list; with none left the block proceeds (log 1). -/
def nextStep (s : State) : Host.Outcome State Fault Refusal :=
  match s.moves with
  | [] => proceed s
  | m :: ms => hostMove m { s with moves := ms }

/-- The host loads the program of the one word `w` and presents it to an idle block: the next step accepts it (log 14). -/
def loadWord (w : Word) (s : State) : State :=
  { s with program := [w], pc := 0, moves := [], busy := false, slot := 0 }

end Sys2Proof.Machine
end

