-- ==== Sys2Proof/Machine/Step.lean ====
section
/-! DEFINITION. The step function and the placing of an instruction where the next step takes it. -/

namespace Sys2Proof.Machine

/-- One step of the machine: one accepted command word, one serializer step, one register read or one reset (R127). -/
def step (s : State) : Host.Outcome State Fault Refusal := nextStep s

/-- `s` with the table's word of `nbits` bits (bits above them zero) presented at the command port, so that the next step
accepts and executes it. The block fetches nothing (R18, R37): the host's program is loaded from outside, and this stands
for that load (log 14). -/
def State.withFetchWord (s : State) (nbits w : Nat) : State :=
  loadWord (BitVec.ofNat 32 (w % 2 ^ nbits)) s

end Sys2Proof.Machine
end

