-- ==== Sys2Proof/Machine/Assembler.lean ====
section
/-! DEFINITION. The assembler syntax of R57 and the pseudo-instructions of R58, over lists of characters. It is how the spec
writes the host's programs; no step of the machine uses it. What R57 leaves open of the text (white space, number prefixes,
the call form of the document's names) is said in log 15. -/

namespace Sys2Proof.Machine

/-- Why a line is not assembled (R57: an assembler rejects a name or number outside its sets). -/
inductive AsmError where
  /-- No mnemonic or pseudo-instruction has this name. -/
  | unknownMnemonic
  /-- The operands are not as many as the mnemonic takes. -/
  | operandCount
  /-- An operand is no name or number of its set. -/
  | badOperand
  deriving DecidableEq, Repr

/-- The pseudo-instructions with an expansion of two words (R58). -/
inductive Pseudo where
  | xmft (unit : AcUnit) (mode : AcMode) (special : SpecialMode) (fan : FanSpeed) (temp : BitVec 8)
  | xfix (unit : AcUnit)
  | xswing (unit : AcUnit)
  deriving DecidableEq, Repr

/-- R58: the build, then `SEND`. -/
def Pseudo.expand : Pseudo → List Instr
  | .xmft u m sp f t => [.mft u m sp f t, .send]
  | .xfix u => [.fix u, .send]
  | .xswing u => [.swing u, .send]

/-! ### Characters and numbers -/

/-- Small letter of a capital letter; mnemonics and names are case-insensitive (R57). -/
def lowerChar (c : Char) : Char :=
  if 'A'.toNat ≤ c.toNat ∧ c.toNat ≤ 'Z'.toNat then Char.ofNat (c.toNat + 32) else c

def isBlank (c : Char) : Bool := c == ' ' || c == '\t' || c == '\r'

def trimBlanks (cs : List Char) : List Char :=
  ((cs.dropWhile isBlank).reverse.dropWhile isBlank).reverse

/-- The value of a digit in some base up to 16. -/
def digitValue (c : Char) : Option Nat :=
  if '0'.toNat ≤ c.toNat ∧ c.toNat ≤ '9'.toNat then some (c.toNat - '0'.toNat)
  else if 'a'.toNat ≤ c.toNat ∧ c.toNat ≤ 'f'.toNat then some (c.toNat - 'a'.toNat + 10)
  else none

/-- The number whose digits are `cs`, after the digits that made `acc`. -/
def digitsFrom (base acc : Nat) : List Char → Option Nat
  | [] => some acc
  | c :: cs =>
    match digitValue c with
    | some d => if d < base then digitsFrom base (acc * base + d) cs else none
    | none => none

/-- An unsigned number: `0x` hexadecimal, `0b` binary, else decimal (00_scope.md section 5.1). -/
def parseNumber (cs : List Char) : Option Nat :=
  match cs with
  | [] => none
  | '0' :: 'x' :: c :: rest => digitsFrom 16 0 (c :: rest)
  | '0' :: 'b' :: c :: rest => digitsFrom 2 0 (c :: rest)
  | c :: rest => digitsFrom 10 0 (c :: rest)

/-- A number below `2 ^ n`. -/
def parseBits (n : Nat) (cs : List Char) : Option (BitVec n) :=
  match parseNumber cs with
  | some v => if v < 2 ^ n then some (BitVec.ofNat n v) else none
  | none => none

/-! ### Operand names (R57), in small letters -/

def parseUnit (cs : List Char) : Option AcUnit :=
  if cs = ['a'] ∨ cs = ['u', 'n', 'i', 't', 'a'] then some .a
  else if cs = ['b'] ∨ cs = ['u', 'n', 'i', 't', 'b'] then some .b
  else none

def parseMode (cs : List Char) : Option AcMode :=
  if cs = ['a', 'u', 't', 'o'] then some .auto
  else if cs = ['c', 'o', 'o', 'l', 'i', 'n', 'g'] then some .cooling
  else if cs = ['d', 'r', 'y', 'i', 'n', 'g'] then some .drying
  else if cs = ['h', 'e', 'a', 't', 'i', 'n', 'g'] then some .heating
  else if cs = ['p', 'o', 'w', 'e', 'r', 'o', 'f', 'f'] then some .powerOff
  else none

def parseSpecial (cs : List Char) : Option SpecialMode :=
  if cs = ['n', 'o', 'n', 'e'] then some .noSpecial
  else if cs = ['h', 'i', 'p', 'o', 'w', 'e', 'r'] then some .hiPower
  else if cs = ['e', 'c', 'o'] then some .eco
  else none

/-- `Speed1` .. `Speed5` by number. -/
def fanOfDigit (c : Char) : Option FanSpeed :=
  match c with
  | '1' => some .speed1
  | '2' => some .speed2
  | '3' => some .speed3
  | '4' => some .speed4
  | '5' => some .speed5
  | _ => none

def parseFan (cs : List Char) : Option FanSpeed :=
  match cs with
  | ['a', 'u', 't', 'o'] => some .auto
  | ['f', 'a', 'n', 'a', 'u', 't', 'o'] => some .auto
  | ['s', 'p', 'e', 'e', 'd', d] => fanOfDigit d
  | ['f', 'a', 'n', d] => fanOfDigit d
  | _ => none

/-! ### Lines -/

/-- The five operands of a mode/fan/temperature build, in the document's order (R57). -/
def parseMftOperands (ops : List (List Char)) :
    Except AsmError (AcUnit × AcMode × SpecialMode × FanSpeed × BitVec 8) :=
  match ops with
  | [u, m, sp, f, t] =>
    match parseUnit u, parseMode m, parseSpecial sp, parseFan f, parseBits 8 t with
    | some u, some m, some sp, some f, some t => .ok (u, m, sp, f, t)
    | _, _, _, _, _ => .error .badOperand
  | _ => .error .operandCount

/-- One operand read by `parse`. -/
def oneOperand {α : Type} (parse : List Char → Option α) (ops : List (List Char)) : Except AsmError α :=
  match ops with
  | [x] =>
    match parse x with
    | some v => .ok v
    | none => .error .badOperand
  | _ => .error .operandCount

/-- The operands between commas. -/
def splitOperands (cs : List Char) : List (List Char) :=
  if trimBlanks cs = [] then [] else (cs.splitOn ',').map trimBlanks

/-- The text inside the parentheses of a call (R58). -/
def callOperands (cs : List Char) : Except AsmError (List (List Char)) :=
  match trimBlanks cs with
  | '(' :: rest =>
    match rest.reverse with
    | ')' :: inner => .ok (splitOperands inner.reverse)
    | _ => .error .badOperand
  | _ => .error .badOperand

def isMnemonicChar (c : Char) : Bool := !isBlank c && c != '('

/-- The words of a line whose mnemonic is `m` and whose operand text is `rest`, both in small letters (R57, R58). -/
def assembleOp (m rest : List Char) : Except AsmError (List Word) :=
  let words (is : List Instr) : List Word := is.map encode
  if m = ['m', 'f', 't'] then
    (parseMftOperands (splitOperands rest)).map fun (u, m, sp, f, t) => words [.mft u m sp f t]
  else if m = ['f', 'i', 'x'] then (oneOperand parseUnit (splitOperands rest)).map fun u => words [.fix u]
  else if m = ['s', 'w', 'i', 'n', 'g'] then (oneOperand parseUnit (splitOperands rest)).map fun u => words [.swing u]
  else if m = ['h', 'd', 'r'] then (oneOperand (parseBits 16) (splitOperands rest)).map fun c => words [.hdr c]
  else if m = ['s', 'e', 'n', 'd'] then
    if splitOperands rest = [] then .ok (words [.send]) else .error .operandCount
  else if m = ['.', 'w', 'o', 'r', 'd'] then (oneOperand (parseBits 32) (splitOperands rest)).map fun w => [w]
  else if m = ['x', 'm', 'f', 't'] then
    (parseMftOperands (splitOperands rest)).map fun (u, m, sp, f, t) => words (Pseudo.xmft u m sp f t).expand
  else if m = ['x', 'f', 'i', 'x'] then
    (oneOperand parseUnit (splitOperands rest)).map fun u => words (Pseudo.xfix u).expand
  else if m = ['x', 's', 'w', 'i', 'n', 'g'] then
    (oneOperand parseUnit (splitOperands rest)).map fun u => words (Pseudo.xswing u).expand
  else if m = ['b', 'u', 'i', 'l', 'd', 'm', 'o', 'd', 'e', 'f', 'a', 'n', 't', 'e', 'm', 'p'] then
    ((callOperands rest).bind parseMftOperands).map fun (u, m, sp, f, t) => words [.mft u m sp f t]
  else if m = ['b', 'u', 'i', 'l', 'd', 'f', 'i', 'x'] then
    ((callOperands rest).bind (oneOperand parseUnit)).map fun u => words [.fix u]
  else if m = ['b', 'u', 'i', 'l', 'd', 's', 'w', 'i', 'n', 'g'] then
    ((callOperands rest).bind (oneOperand parseUnit)).map fun u => words [.swing u]
  else if m = ['b', 'u', 'i', 'l', 'd', 'h', 'e', 'a', 'd', 'e', 'r'] then
    ((callOperands rest).bind (oneOperand (parseBits 16))).map fun c => words [.hdr c]
  else .error .unknownMnemonic

/-- The words of one line: `;` starts a comment, an empty line has none (R57). -/
def assembleLine (line : List Char) : Except AsmError (List Word) :=
  let text := trimBlanks ((line.takeWhile (· != ';')).map lowerChar)
  if text = [] then .ok []
  else assembleOp (text.takeWhile isMnemonicChar) (text.dropWhile isMnemonicChar)

/-- The words of a program, one operation a line (R57). -/
def assembleLines : List (List Char) → Except AsmError (List Word)
  | [] => .ok []
  | l :: ls =>
    match assembleLine l, assembleLines ls with
    | .ok ws, .ok rest => .ok (ws ++ rest)
    | .error e, _ => .error e
    | .ok _, .error e => .error e

/-- The host's list of command words for a program's text (R18, R57). -/
def assemble (source : List Char) : Except AsmError (List Word) := assembleLines (source.splitOn '\n')

end Sys2Proof.Machine
end

