-- ==== Sys2Proof/Safety.lean ====
section
/-! DEFINITION. The terms in which claims speak: the legality predicates of R68, the frames the Frame Builder makes, the
invariants of the state (R14, R21, R85), the reading of a recorded run (R23, R128) and of a train (R87). -/

namespace Sys2Proof.Machine

/-! ### Legal headers and frames -/

/-- R68 `HeaderOK`. -/
abbrev HeaderOK (h : Word) : Prop := h.extractLsb' 16 16 = 0xF20D#16 ∧ byte3 h = xor3hi h

/-- R68 `StateSumOK`. -/
abbrev StateSumOK (s : Word) (e : Byte) : Prop := e = xor4 s

/-- The header word of a frame of family `0x03` (R65) or `0x01` (R66, R67), as the spec's text gives it for each unit. -/
def mftHeaderOf : AcUnit → Word
  | .a => 0xF20D03FC#32
  | .b => 0xF20D13EC#32

def fixSwingHeaderOf : AcUnit → Word
  | .a => 0xF20D01FE#32
  | .b => 0xF20D11EE#32

/-- The frame is one the Frame Builder makes (R85: "the registers can hold only what the Frame Builder put there"). -/
inductive Built : Frame → Prop where
  | mft (u : AcUnit) (m : AcMode) (sp : SpecialMode) (f : FanSpeed) (t : Byte) (low : 17 ≤ t.toNat) (high : t.toNat ≤ 30) :
      Built ⟨mftHeaderOf u, mftState m sp f t, mftEnd sp (mftState m sp f t)⟩
  | fix (u : AcUnit) : Built ⟨fixSwingHeaderOf u, 0x21002100#32, 0x60#8⟩
  | swing (u : AcUnit) : Built ⟨fixSwingHeaderOf u, 0x21042500#32, 0x60#8⟩

/-! ### The invariant of the block's state -/

/-- Which registers hold values (R14), what they hold (R21, R85), and when the serializer runs (R81, R82, R17). -/
structure State.Inv (s : State) : Prop where
  /-- R14: `HDR` holds a value exactly when `HV = 1`. -/
  hdr_held : s.hdr.isSome = s.hv
  /-- R14: `STW` and `ENDB` hold values exactly when `FV = 1`. -/
  stw_held : s.stw.isSome = s.fv
  endb_held : s.endb.isSome = s.fv
  /-- R14: `FV = 1` implies `HV = 1`. -/
  frame_has_header : s.fv = true → s.hv = true
  /-- R21, R68 (a). -/
  header_ok : ∀ h, s.hdr = some h → HeaderOK h
  /-- R85. -/
  frame_built : ∀ h w e, s.hdr = some h → s.stw = some w → s.endb = some e → Built ⟨h, w, e⟩
  /-- R81, R122: a train runs on a complete frame, after a successful `SEND`. -/
  busy_frame : s.busy = true → s.fv = true
  busy_err : s.busy = true → s.err = .errNone
  /-- R17, R82: between trains the counter is 0. -/
  idle_slot : s.busy = false → s.slot = 0

/-! ### Reading a recorded run (R23, R128) -/

/-- The slots on the pulse port, in order. -/
def emittedSlots (h : List Event) : List Pulse :=
  h.filterMap fun e => match e with | .emitted p => some p | _ => none

/-- The accepted words, in order. -/
def acceptedWords (h : List Event) : List Word :=
  h.filterMap fun e => match e with | .accepted w _ => some w | _ => none

/-- The sequence of `STATUS.ERR` values, one per accepted word. -/
def errSequence (h : List Event) : List ErrCode :=
  h.filterMap fun e => match e with | .accepted _ c => some c | _ => none

/-- A successful `SEND` or a reset: from here on the slots are a new train (R23). -/
def Event.startsTrain : Event → Bool
  | .accepted w .errNone => match decode w with | .ok .send => true | _ => false
  | .wasReset => true
  | _ => false

/-- One event's effect on the train so far. -/
def extendTrain (train : List Pulse) (e : Event) : List Pulse :=
  match e with
  | .emitted p => train ++ [p]
  | e => if e.startsTrain then [] else train

/-- The `PulseTrain`: the slots emitted since the last successful `SEND` or reset (R23). -/
def currentTrain (h : List Event) : List Pulse := h.foldl extendTrain []

/-- R128: every word of the host's list has been accepted and `BUSY = 0`. -/
abbrev RunEnded (s : State) : Prop := s.program.length ≤ s.pc ∧ s.busy = false

/-- While a train runs, what was emitted since its `SEND` is the first `SLOT` slots of the train of the frame held (R84). -/
def TrainSoFar (s : State) : Prop :=
  s.busy = true → currentTrain s.history = (serialize (frameRead s)).take s.slot.val

/-- In a run without a reset the pulse port has carried whole trains of built frames and, while `BUSY = 1`, the first `SLOT`
slots of one more (R109, R35 (e)). -/
def OnlyWholeTrains (s : State) : Prop :=
  Event.wasReset ∉ s.history →
    ∃ sent : List Frame, (∀ f ∈ sent, Built f) ∧
      emittedSlots s.history = sent.flatMap (fun f => serialize f.bits)
        ++ (if s.busy then (serialize (frameRead s)).take s.slot.val else [])

/-- The words accepted so far are the first `pc` of the host's list, each exactly once and in order (R18, R35 (a), R63). -/
def AcceptedInOrder (s : State) : Prop :=
  s.pc ≤ s.program.length ∧ acceptedWords s.history = s.program.take s.pc

/-! ### Reading a train (R87) -/

/-- The number of one bits of a frame. -/
def popcount (f : BitVec 72) : Nat := (List.range 72).countP fun i => f.getLsbD i

/-- The 32 header bits read back from slots 3, 5, ..., 65 of a train, most significant first: a space of 1643 is a one
(R87 (e)). -/
def headerReadBack (train : List Pulse) : Nat :=
  (List.range 32).foldl (fun n i =>
    2 * n + (match train[3 + 2 * i]? with | some p => if p.dur = 1643#13 then 1 else 0 | none => 0)) 0

end Sys2Proof.Machine
end

