-- ==== Sys2Proof/Certificates/Slice0/Obligations.lean ====
section
/-! DEFINITION. The statements for the provers. A value that Config leaves open is opaque, so each statement is about every
value of it. `core.run` is the host's iteration of `step`. -/

open Sys2Proof Sys2Proof.Machine

/-! ### Reset (R22, R120, R124) -/

/-- R22: what every piece of state holds after reset. -/
def Obligations.ResetLeavesNothingToSend : Prop :=
  State.reset.hdr = none ∧ State.reset.stw = none ∧ State.reset.endb = none ∧
  State.reset.hv = false ∧ State.reset.fv = false ∧ State.reset.busy = false ∧ State.reset.err = .errNone ∧
  State.reset.status = 0#32 ∧ State.reset.slot = 0

/-- R120: in every state, a train running or not, the reset event puts the block to its values of R22 and emits no slot.
That the host's program, index and remaining choices stay is the model's choice (log 11). -/
def Obligations.ResetEventRestoresTheBlock : Prop :=
  ∀ (s : State) (ms : List HostMove), s.moves = .reset :: ms →
    step s = .next { State.reset with
      program := s.program, pc := s.pc, moves := ms, draws := s.draws, history := s.history ++ [.wasReset] }

/-- R124: a reset in a train leaves a proper prefix of the train of the frame on the pulse port and stops the serializer. -/
def Obligations.ResetInATrainTruncatesIt : Prop :=
  ∀ (s t : State) (ms : List HostMove), TrainSoFar s → s.busy = true → s.moves = .reset :: ms → step s = .next t →
    t.busy = false ∧ t.hdr = none ∧ t.stw = none ∧ t.endb = none ∧ emittedSlots t.history = emittedSlots s.history ∧
    currentTrain s.history <+: serialize (frameRead s) ∧ (currentTrain s.history).length < (serialize (frameRead s)).length

/-! ### The status register (R15, R16) -/

/-- R15: the layout of `STATUS`. -/
def Obligations.StatusShowsTheFlags : Prop :=
  ∀ s : State,
    s.status.getLsbD 0 = s.hv ∧ s.status.getLsbD 1 = s.fv ∧ s.status.getLsbD 2 = s.busy ∧ s.status.getLsbD 3 = false ∧
    s.status.extractLsb' 4 3 = s.err.code ∧ s.status.extractLsb' 7 25 = 0#25

/-- R16: the five codes; 5, 6, 7 are never produced, in any state. -/
def Obligations.ErrShowsOneOfFiveCodes : Prop :=
  ErrCode.code .errNone = 0#3 ∧ ErrCode.code .invalidCommand = 1#3 ∧ ErrCode.code .tempRange = 2#3 ∧
  ErrCode.code .illegalWord = 3#3 ∧ ErrCode.code .noFrame = 4#3 ∧
  ∀ s : State, (s.status.extractLsb' 4 3).toNat ≤ 4

/-! ### Code tables (R5) -/

/-- R5: the codes the spec fixes, the unused fan codes, and what it asks of the open codes: five distinct mode codes, so
that none of the open ones is 7, and two distinct special codes. -/
def Obligations.CodeTablesAreAsConstrained : Prop :=
  Protocol.unitCode .a = 0#1 ∧ Protocol.unitCode .b = 1#1 ∧
  Protocol.modeCode .powerOff = 7#3 ∧ Function.Injective Protocol.modeCode ∧
  Protocol.fanCode .auto = 0#3 ∧ Protocol.fanCode .speed1 = 2#3 ∧ Protocol.fanCode .speed2 = 3#3 ∧
  Protocol.fanCode .speed3 = 4#3 ∧ Protocol.fanCode .speed4 = 5#3 ∧ Protocol.fanCode .speed5 = 6#3 ∧
  (∀ f, Protocol.fanCode f ≠ 1#3 ∧ Protocol.fanCode f ≠ 7#3) ∧
  Protocol.specialCode .noSpecial = none ∧
  (∃ h e, Protocol.specialCode .hiPower = some h ∧ Protocol.specialCode .eco = some e ∧ h ≠ e)

/-! ### Encoding (R40 to R49) -/

/-- Decoding the word of any operation, with every operand at every value, gives the operation back. -/
def Obligations.DecodeOfEncodeIsTheInstruction : Prop :=
  ∀ i : Instr, decode (encode i) = .ok i

/-- A word that decodes to an operation is that operation's word: no bit of a legal word is ignored. -/
def Obligations.EncodeOfDecodeIsTheWord : Prop :=
  ∀ (w : Word) (i : Instr), decode w = .ok i → encode i = w

/-- R49: the decoder, which tests the masks of R45, accepts exactly the words that the format tables R41 to R44 and the
selector tables of R46 make legal. -/
def Obligations.DecoderAcceptsExactlyLegalWords : Prop :=
  ∀ w : Word, (∃ i, decode w = .ok i) ↔ wordLegal w = true

/-- R45: at most one row of the opcode map matches a word. -/
def Obligations.AtMostOneRowMatches : Prop :=
  ∀ (w : Word) (r r' : OpcodeRow), r ∈ opcodeRows → r' ∈ opcodeRows → r.matches w = true → r'.matches w = true → r = r'

/-- Words written out bit by bit from R41 to R44 decode to what they stand for. -/
def Obligations.SpecWordsDecode : Prop :=
  decode 0b00010000010000000000000000010111#32 = .ok (.mft .a .powerOff .noSpecial .auto 23#8) ∧
  decode 0b00010001010001010000001000011110#32 = .ok (.mft .b .powerOff .eco .speed5 30#8) ∧
  decode 0b00100001000000000000000000000000#32 = .ok (.fix .b) ∧
  decode 0b00110000000000000000000000000000#32 = .ok (.swing .a) ∧
  decode 0b01000000000000000000000000010011#32 = .ok (.hdr 0x13#16) ∧
  decode 0b01010000000000000000000000000000#32 = .ok .send ∧
  decode 0x00000000#32 = .error .reservedOpcode ∧
  decode 0x12400017#32 = .error .mustBeZero ∧
  decode 0x10500017#32 = .error .reservedSelector

/-! ### The Frame Builder (R52, R60 to R70) -/

/-- R60: `buildHeader` on every 16-bit value. -/
def Obligations.BuildHeaderChecksThenPacks : Prop :=
  ∀ c : BitVec 16,
    (c.toNat ≤ 0xFF → ∃ h, buildHeader c = .ok h ∧ h.toNat = 0xF20D * 2 ^ 16 + c.toNat * 2 ^ 8 + (0xFF - c.toNat) ∧
      HeaderOK h) ∧
    (0xFF < c.toNat → buildHeader c = .error .invalidCommand)

/-- R64: a command value up to 0xFF leaves a header and no frame, and a following `SEND` is rejected; a larger one is
rejected and no register keeps a value. Nothing else of the state changes. -/
def Obligations.HdrBuildsAHeaderOrRejects : Prop :=
  ∀ (s : State) (c : BitVec 16), s.busy = false →
    (c.toNat ≤ 0xFF → ∃ h t, buildHeader c = .ok h ∧ exec (.hdr c) s = .next t ∧
      t = { s with hdr := some h, stw := none, endb := none, hv := true, fv := false, err := .errNone } ∧
      exec .send t = .next { t with hdr := none, hv := false, err := .noFrame }) ∧
    (0xFF < c.toNat → exec (.hdr c) s = .next
      { s with hdr := none, stw := none, endb := none, hv := false, fv := false, err := .invalidCommand })

/-- R65, R102: for every temperature in 17..30 and every combination of operands `MFT` builds its frame: the header of the
unit, the state word as the sum of its fields, the checksum or the literal code as end byte. For every other temperature it
is rejected, whatever the other operands are. Nothing else of the state changes. -/
def Obligations.MftBuildsItsFrameOrRejects : Prop :=
  ∀ (s : State) (u : AcUnit) (m : AcMode) (sp : SpecialMode) (f : FanSpeed) (t : BitVec 8), s.busy = false →
    (17 ≤ t.toNat → t.toNat ≤ 30 → ∃ (h w : Word) (e : Byte),
      exec (.mft u m sp f t) s = .next
        { s with hdr := some h, stw := some w, endb := some e, hv := true, fv := true, err := .errNone } ∧
      h = (if u = .a then 0xF20D03FC#32 else 0xF20D13EC#32) ∧
      w.toNat = (if sp = .noSpecial then 1 else 9) * 2 ^ 24 + (t.toNat - 17) * 2 ^ 20
        + (Protocol.fanCode f).toNat * 2 ^ 13 + (Protocol.modeCode m).toNat * 2 ^ 8 ∧
      (sp = .noSpecial → StateSumOK w e) ∧ (sp ≠ .noSpecial → some e = Protocol.specialCode sp)) ∧
    (t.toNat < 17 ∨ 30 < t.toNat → exec (.mft u m sp f t) s = .next
      { s with hdr := none, stw := none, endb := none, hv := false, fv := false, err := .tempRange })

/-- R52: field by field, the state word of every `MFT` frame. -/
def Obligations.StateWordHasTheLayout : Prop :=
  ∀ (m : AcMode) (sp : SpecialMode) (f : FanSpeed) (t : BitVec 8), 17 ≤ t.toNat → t.toNat ≤ 30 →
    let w := mftState m sp f t
    w.extractLsb' 28 4 = 0#4 ∧ w.extractLsb' 24 4 = (if sp = .noSpecial then 1#4 else 9#4) ∧
    (w.extractLsb' 20 4).toNat = t.toNat - 17 ∧ w.extractLsb' 18 2 = 0#2 ∧ w.extractLsb' 16 2 = 0#2 ∧
    w.extractLsb' 13 3 = Protocol.fanCode f ∧ w.extractLsb' 11 2 = 0#2 ∧
    w.extractLsb' 8 3 = Protocol.modeCode m ∧ w.extractLsb' 0 8 = 0#8

/-- R66: `FIX` builds its constant frame and sets the flags to 1, 1, 0; nothing else changes. -/
def Obligations.FixBuildsItsFrame : Prop :=
  ∀ (s : State) (u : AcUnit), s.busy = false →
    exec (.fix u) s = .next
      { s with hdr := some (if u = .a then 0xF20D01FE#32 else 0xF20D11EE#32), stw := some 0x21002100#32,
               endb := some 0x60#8, hv := true, fv := true, err := .errNone }

/-- R67: `SWING` builds its constant frame; its header is that of `FIX` and its state word differs in bits 18 and 10. -/
def Obligations.SwingBuildsItsFrame : Prop :=
  ∀ (s : State) (u : AcUnit), s.busy = false →
    exec (.swing u) s = .next
      { s with hdr := some (if u = .a then 0xF20D01FE#32 else 0xF20D11EE#32), stw := some 0x21042500#32,
               endb := some 0x60#8, hv := true, fv := true, err := .errNone } ∧
    (0x21042500#32 : Word) ^^^ 0x21002100#32 = 0x00040400#32

/-- R68: `HeaderOK` of every built frame; `StateSumOK` after a normal `MFT` and never after `FIX` or `SWING`. -/
def Obligations.BuiltFramesAreLegal : Prop :=
  (∀ f : Frame, Built f → HeaderOK f.hdr) ∧
  (∀ (s t : State) (m : AcMode) (u : AcUnit) (f : FanSpeed) (v : BitVec 8) (w : Word) (e : Byte), s.busy = false →
    exec (.mft u m .noSpecial f v) s = .next t → t.stw = some w → t.endb = some e → StateSumOK w e) ∧
  (∀ (s t : State) (u : AcUnit) (w : Word) (e : Byte), s.busy = false →
    exec (.fix u) s = .next t ∨ exec (.swing u) s = .next t → t.stw = some w → t.endb = some e → ¬ StateSumOK w e)

/-- R70 (b), R101: `HDR` ends with `InvalidCommand` exactly for a value above 0xFF, no other operation ever does, and the
command byte of every frame the three builds make is 0x03, 0x13, 0x01 or 0x11. -/
def Obligations.InvalidCommandOnlyFromHdr : Prop :=
  ∀ (i : Instr) (s t : State), s.busy = false → exec i s = .next t →
    (∀ c, i = .hdr c → (t.err = .invalidCommand ↔ 0xFF < c.toNat)) ∧
    ((∀ c, i ≠ .hdr c) → t.err ≠ .invalidCommand) ∧
    ((∀ c, i ≠ .hdr c) → i ≠ .send → ∀ h, t.hdr = some h →
      byte2 h = 0x03#8 ∨ byte2 h = 0x13#8 ∨ byte2 h = 0x01#8 ∨ byte2 h = 0x11#8)

/-- R70 (f): two frames that differ only in the unit differ in exactly two bits, header bits 12 and 4, for `FIX`, for
`SWING` and for `MFT`. -/
def Obligations.UnitsDifferInTwoHeaderBits : Prop :=
  ∀ (s ta tb : State) (m : AcMode) (sp : SpecialMode) (f : FanSpeed) (v : BitVec 8), s.busy = false →
    17 ≤ v.toNat → v.toNat ≤ 30 →
    (exec (.fix .a) s = .next ta ∧ exec (.fix .b) s = .next tb) ∨
    (exec (.swing .a) s = .next ta ∧ exec (.swing .b) s = .next tb) ∨
    (exec (.mft .a m sp f v) s = .next ta ∧ exec (.mft .b m sp f v) s = .next tb) →
    (∃ ha hb, ta.hdr = some ha ∧ tb.hdr = some hb ∧ ha ^^^ hb = (1#32 <<< 12) ||| (1#32 <<< 4)) ∧
    ta.stw = tb.stw ∧ ta.endb = tb.endb

/-- R3, R70 (g): what a build command leaves in the frame registers and in `HV`, `FV`, `ERR` depends on the command alone,
not on the state before it. -/
def Obligations.BuildResultIgnoresTheState : Prop :=
  ∀ (i : Instr) (s s' t t' : State), i ≠ .send → s.busy = false → s'.busy = false →
    exec i s = .next t → exec i s' = .next t' →
    t.hdr = t'.hdr ∧ t.stw = t'.stw ∧ t.endb = t'.endb ∧ t.hv = t'.hv ∧ t.fv = t'.fv ∧ t.err = t'.err

/-! ### `SEND` (R81, R104) -/

/-- R81, R104: with a frame held `SEND` starts the serializer at slot 0 and leaves the frame and its flags alone; without a
frame it is rejected, a header left by `HDR` is dropped, nothing is emitted and `BUSY` stays 0. -/
def Obligations.SendStartsTheTrainOrRejects : Prop :=
  ∀ s : State, s.busy = false →
    (s.fv = true → exec .send s = .next { s with busy := true, slot := 0, err := .errNone }) ∧
    (s.fv = false → exec .send s = .next
      { s with hdr := none, stw := none, endb := none, hv := false, fv := false, err := .noFrame })

/-! ### Frames: what an operation leaves unchanged, and the hold -/

/-- What each of the five operations leaves unchanged, in every state: the host's program, index and choices, the drawn
values and the recorded events; `SLOT` and `BUSY` for every operation but `SEND`; for `SEND` with a frame, the frame
registers, `HV` and `FV`. The block has no memory and no other register (R10, R30). -/
def Obligations.OperationsLeaveTheRestUnchanged : Prop :=
  ∀ (i : Instr) (s t : State), exec i s = .next t →
    t.program = s.program ∧ t.pc = s.pc ∧ t.moves = s.moves ∧ t.draws = s.draws ∧ t.history = s.history ∧
    (i ≠ .send → t.busy = s.busy ∧ t.slot = s.slot) ∧
    (i = .send → s.fv = true → t.hdr = s.hdr ∧ t.stw = s.stw ∧ t.endb = s.endb ∧ t.hv = s.hv ∧ t.fv = s.fv) ∧
    (i = .send → s.fv = false → t.busy = s.busy ∧ t.slot = s.slot)

/-- The model's choice (log 10), inferred from the hold of section 1 of 40_frame_builder.md: the meaning of an operation in a
state with `BUSY = 1` leaves that state as it is. No step takes the meaning there: a step of a busy block never calls `exec`. -/
def Obligations.BusyBlockHoldsEveryOperation : Prop :=
  ∀ (i : Instr) (s : State), s.busy = true → exec i s = .next s

/-- R106, D8: a rejected operation leaves no value in a frame register, clears `HV` and `FV`, records its code and changes
nothing else (`BUSY` and `SLOT` among it); the next word is executed as usual, and a `SEND` there finds no stale frame. -/
def Obligations.RejectionLeavesNothingToSend : Prop :=
  ∀ (i : Instr) (s t : State), s.busy = false → exec i s = .next t → t.err ≠ .errNone →
    t = { s with hdr := none, stw := none, endb := none, hv := false, fv := false, err := t.err } ∧
    exec .send t = .next { t with err := .noFrame } ∧
    ∀ u, ∃ t', exec (.fix u) t = .next t' ∧ t'.err = .errNone ∧ t'.fv = true

/-! ### Steps: acceptance, the hold, register reads -/

/-- When the host lets the block proceed, the block is idle, and the presented word decodes to `i`, the step is `exec i` and
then the host moves to its next word and the word is recorded with its ERR (R18, R63, R128). -/
def Obligations.StepRunsTheDecodedInstruction : Prop :=
  ∀ (s t : State) (w : Word) (i : Instr), s.busy = false → s.program[s.pc]? = some w → decode w = .ok i →
    (s.moves = [] → exec i s = .next t →
      step s = .next { t with pc := t.pc + 1, history := t.history ++ [.accepted w t.err] }) ∧
    (∀ ms, s.moves = .proceed :: ms → exec i { s with moves := ms } = .next t →
      step s = .next { t with pc := t.pc + 1, history := t.history ++ [.accepted w t.err] })

/-- R103, R105: an illegal word that an idle block accepts, with no move of the host left or with `proceed` next, is rejected
with code 3, whatever its operand bits are. -/
def Obligations.IllegalWordIsRejected : Prop :=
  ∀ (s : State) (w : Word), (s.moves = [] ∨ ∃ ms, s.moves = .proceed :: ms) →
    s.busy = false → s.program[s.pc]? = some w → wordLegal w = false →
    step s = .next
      { s with moves := s.moves.tail, hdr := none, stw := none, endb := none, hv := false, fv := false,
               err := .illegalWord, pc := s.pc + 1, history := s.history ++ [.accepted w .illegalWord] }

/-- Every state has a next one: the block has no fault, no trap and no refusal. For an idle block with nothing presented this
is the model's choice (log 13: it waits), and for a busy block without a frame, which no run reaches, it is too (log 4: the
serializer emits arbitrary bits). -/
def Obligations.EveryStepAnswersANextState : Prop :=
  ∀ s : State, ∃ t, step s = .next t

/-- The model's choice (log 13), from R111: an idle block to which no word is presented waits, and its step changes
nothing but the host's list of moves, from which `proceed` is taken if it stood first. -/
def Obligations.IdleBlockWaits : Prop :=
  ∀ s : State, (s.moves = [] ∨ ∃ ms, s.moves = .proceed :: ms) → s.busy = false → s.program.length ≤ s.pc →
    step s = .next { s with moves := s.moves.tail }

/-- R82: the serializer's step, for every frame and every slot, with a word waiting or not, with no move of the host left or
with `proceed` next and any moves after it. -/
def Obligations.SerializerStepEmitsOneSlot : Prop :=
  ∀ (s : State) (h w : Word) (e : Byte), (s.moves = [] ∨ ∃ ms, s.moves = .proceed :: ms) → s.busy = true →
    s.hdr = some h → s.stw = some w → s.endb = some e →
    step s = .next
      (if s.slot.val = 146 then
        { s with moves := s.moves.tail, busy := false, slot := 0,
                 history := s.history ++ [.emitted (slotAt (h ++ w ++ e) s.slot.val)] }
      else
        { s with moves := s.moves.tail, slot := s.slot + 1,
                 history := s.history ++ [.emitted (slotAt (h ++ w ++ e) s.slot.val)] })

/-- R122: a word presented while `BUSY = 1` is neither executed nor lost: after the rest of the train, and not before, the
block is idle with the same word presented and the frame registers, flags and error code as they stood. -/
def Obligations.HeldWordWaitsForTheTrain : Prop :=
  ∀ (s : State) (w : Word), s.Inv → s.moves = [] → s.busy = true → s.program[s.pc]? = some w →
    (∀ n, n < 147 - s.slot.val → ∃ t, core.run n s = .next t ∧ t.busy = true ∧ t.pc = s.pc ∧ t.program = s.program) ∧
    (∃ t, core.run (147 - s.slot.val) s = .next t ∧ t.busy = false ∧ t.program[t.pc]? = some w ∧ t.pc = s.pc ∧
      t.hdr = s.hdr ∧ t.stw = s.stw ∧ t.endb = s.endb ∧ t.hv = s.hv ∧ t.fv = s.fv ∧ t.err = s.err)

/-- R20, R122: in a step of a busy block the frame registers do not change, unless the step is a reset. -/
def Obligations.FrameIsStableWhileBusy : Prop :=
  ∀ s t : State, s.busy = true → step s = .next t → (∀ ms, s.moves ≠ .reset :: ms) →
    t.hdr = s.hdr ∧ t.stw = s.stw ∧ t.endb = s.endb ∧ t.hv = s.hv ∧ t.fv = s.fv ∧ t.err = s.err

/-- R109: accepting a word, with no move of the host left or with `proceed` next, emits no slot, and a rejected word does not
start the serializer. -/
def Obligations.AcceptanceEmitsNothing : Prop :=
  ∀ (s t : State) (w : Word), (s.moves = [] ∨ ∃ ms, s.moves = .proceed :: ms) → s.busy = false → s.program[s.pc]? = some w → step s = .next t →
    emittedSlots t.history = emittedSlots s.history ∧ (t.err ≠ .errNone → t.busy = false) ∧
    (t.busy = true → decode w = .ok .send)

/-- R31: a read returns the value held (`ENDB` zero-extended) and changes nothing of the block, busy or not. -/
def Obligations.ReadReturnsTheRegister : Prop :=
  ∀ (s : State) (ms : List HostMove) (v : Word) (i : BitVec 2), s.moves = .read i :: ms →
    (i = 0#2 ∧ s.hdr = some v) ∨ (i = 1#2 ∧ s.stw = some v) ∨ (i = 2#2 ∧ ∃ e, s.endb = some e ∧ v = 0#24 ++ e) ∨
      (i = 3#2 ∧ v = s.status) →
    step s = .next { s with moves := ms, history := s.history ++ [.readBack i v] }

/-- R14: a read of a register that holds NOVALUE returns some word and changes nothing of the block. Which word is a free
value: the statement says only that one value is returned (log 3). -/
def Obligations.ReadOfNoValueReturnsSomeWord : Prop :=
  ∀ (s : State) (ms : List HostMove) (i : BitVec 2), s.moves = .read i :: ms →
    (i = 0#2 ∧ s.hdr = none) ∨ (i = 1#2 ∧ s.stw = none) ∨ (i = 2#2 ∧ s.endb = none) →
    ∃ (t : State) (v : Word), step s = .next t ∧ t.history = s.history ++ [.readBack i v] ∧
      { t with draws := s.draws, history := s.history } = { s with moves := ms }

/-! ### Invariants -/

/-- The invariant holds after reset. -/
def Obligations.InvariantHoldsAtReset : Prop := State.reset.Inv

/-- R14, R17, R21, R85: every step keeps the invariant. -/
def Obligations.EveryStepKeepsTheInvariant : Prop :=
  ∀ s t : State, s.Inv → step s = .next t → t.Inv

/-- The three properties of the record hold after reset. -/
def Obligations.RecordPropertiesHoldAtReset : Prop :=
  TrainSoFar State.reset ∧ OnlyWholeTrains State.reset ∧ AcceptedInOrder State.reset

/-- R84, R82: every step keeps: the slots emitted since the last successful `SEND` are the first `SLOT` slots of the train of
the frame held. -/
def Obligations.EveryStepKeepsTheTrain : Prop :=
  ∀ s t : State, s.Inv → TrainSoFar s → step s = .next t → TrainSoFar t

/-- R109: every step keeps: without a reset, the pulse port has carried whole trains of built frames and the train running. -/
def Obligations.OnlyWholeTrainsOfBuiltFramesAreEmitted : Prop :=
  ∀ s t : State, s.Inv → OnlyWholeTrains s → step s = .next t → OnlyWholeTrains t

/-- R18, R35 (a): every step keeps: the accepted words are the first `pc` words of the host's list, in order. -/
def Obligations.WordsAreAcceptedOnceAndInOrder : Prop :=
  ∀ s t : State, AcceptedInOrder s → step s = .next t → AcceptedInOrder t

/-! ### Whole trains and whole runs -/

/-- R82, R84, D12: from the acceptance of a `SEND` the serializer takes exactly 147 steps, emits `serialize` of the frame held,
and leaves everything else as it stood; before the last step `BUSY` is 1. -/
def Obligations.ATrainIsSerializeOfTheFrame : Prop :=
  ∀ (s : State) (h w : Word) (e : Byte), s.moves = [] → s.busy = true → s.slot = 0 →
    s.hdr = some h → s.stw = some w → s.endb = some e →
    core.run 147 s = .next
      { s with busy := false, history := s.history ++ (serialize (h ++ w ++ e)).map Event.emitted } ∧
    ∀ n, n < 147 → ∃ t, core.run n s = .next t ∧ t.busy = true ∧ t.slot.val = n

/-- R128: every run ends: with no more reads or resets, all words are accepted and `BUSY = 0` after at most 148 steps a word,
plus the rest of the train running. That a run from a busy state without a frame, which no run from reset reaches, ends too
rests on the model's choice of log 4. -/
def Obligations.EveryRunEnds : Prop :=
  ∀ s : State, s.moves = [] →
    ∃ (n : Nat) (t : State),
      n ≤ 148 * (s.program.length - s.pc) + (if s.busy then 147 - s.slot.val else 0) ∧
      core.run n s = .next t ∧ RunEnded t ∧ t.program = s.program

/-- R58: an `X` pseudo-instruction is its build followed by `SEND`; if the build is rejected then the `SEND` is rejected with
`NoFrame` and nothing is emitted. -/
def Obligations.FusedBuildAndSend : Prop :=
  (∀ u m sp f t, (Pseudo.xmft u m sp f t).expand = [.mft u m sp f t, .send]) ∧
  (∀ u, (Pseudo.xfix u).expand = [.fix u, .send] ∧ (Pseudo.xswing u).expand = [.swing u, .send]) ∧
  (∀ (p : Pseudo) (build : Instr) (s : State), s.moves = [] → s.busy = false →
    p.expand = [build, .send] → s.program[s.pc]? = some (encode build) → s.program[s.pc + 1]? = some (encode .send) →
    ∃ t₁ t₂, step s = .next t₁ ∧
      (t₁.err = .errNone → step t₁ = .next t₂ ∧ t₂.busy = true ∧ t₂.slot = 0) ∧
      (t₁.err ≠ .errNone → step t₁ = .next t₂ ∧ t₂.busy = false ∧ t₂.err = .noFrame ∧
        emittedSlots t₂.history = emittedSlots s.history))

/-! ### The serialization function (R55, R80, R86, R87) -/

/-- R55, R80: the train of every frame, slot by slot, and that the serializer's slot map is the same list. -/
def Obligations.SerializeIsTheSlotMap : Prop :=
  ∀ f : BitVec 72,
    (serialize f).length = 147 ∧
    (serialize f)[0]? = some ⟨.mark, 4496#13⟩ ∧ (serialize f)[1]? = some ⟨.space, 4414#13⟩ ∧
    (∀ i, i < 72 → (serialize f)[2 + 2 * i]? = some ⟨.mark, 591#13⟩ ∧
      (serialize f)[3 + 2 * i]? = some ⟨.space, if f.getLsbD (71 - i) then 1643#13 else 591#13⟩) ∧
    (serialize f)[146]? = some ⟨.mark, 600#13⟩ ∧
    ∀ k, k < 147 → (serialize f)[k]? = some (slotAt f k)

/-- R87 (a): 147 slots, marks and spaces alternate, every inner mark is 591. -/
def Obligations.TrainAlternatesMarksAndSpaces : Prop :=
  ∀ f : BitVec 72, (serialize f).length = 147 ∧
    ∀ (k : Nat) (p : Pulse), (serialize f)[k]? = some p →
      (p.level = .mark ↔ k % 2 = 0) ∧ (k % 2 = 0 → k ≠ 0 → k ≠ 146 → p.dur = 591#13)

/-- R87 (c), (d): slot `k` of two trains differs exactly when `k` is the slot of a bit in which the frames differ. -/
def Obligations.TrainsDifferWhereTheFramesDiffer : Prop :=
  ∀ (f g : BitVec 72) (k : Nat), k < 147 →
    ((serialize f)[k]? ≠ (serialize g)[k]? ↔ ∃ b, b < 72 ∧ f.getLsbD b ≠ g.getLsbD b ∧ k = 3 + 2 * (71 - b))

/-- R87 (d): the trains of two frames that differ only in the unit differ in slots 41 and 57 and nowhere else, for the header
words of `FIX` and `SWING` and for those of `MFT`, whatever the rest of the frame is. -/
def Obligations.UnitsDifferInSlots41And57 : Prop :=
  ∀ (w : Word) (e : Byte) (k : Nat),
    ((serialize (Frame.bits ⟨fixSwingHeaderOf .a, w, e⟩))[k]? ≠ (serialize (Frame.bits ⟨fixSwingHeaderOf .b, w, e⟩))[k]? ↔
      k = 41 ∨ k = 57) ∧
    ((serialize (Frame.bits ⟨mftHeaderOf .a, w, e⟩))[k]? ≠ (serialize (Frame.bits ⟨mftHeaderOf .b, w, e⟩))[k]? ↔
      k = 41 ∨ k = 57)

/-- R87 (c): different frames have different trains and different texts. -/
def Obligations.SerializeAndRenderAreInjective : Prop :=
  Function.Injective serialize ∧ Function.Injective fun f => render (serialize f)

/-- R87 (f): the train of every built frame begins with the framing pair and the byte 0xF2. -/
def Obligations.BuiltTrainsBeginWithTheHeaderByte : Prop :=
  ∀ f : Frame, Built f →
    (serialize f.bits).take 18 = [⟨.mark, 4496#13⟩, ⟨.space, 4414#13⟩]
      ++ ([true, true, true, true, false, false, true, false].flatMap fun b =>
        [(⟨.mark, 591#13⟩ : Pulse), ⟨.space, if b then 1643#13 else 591#13⟩])

/-- R87 (e), R68 (a): the header bits read back from the train of a built frame are its header word, whose last byte is the
checksum of the other three. -/
def Obligations.HeaderReadsBackFromTheTrain : Prop :=
  (∀ (h w : Word) (e : Byte), headerReadBack (serialize (h ++ w ++ e)) = h.toNat) ∧
  (∀ f : Frame, Built f → HeaderOK (BitVec.ofNat 32 (headerReadBack (serialize f.bits))))

/-- R86: the text of a train, and its length: 737 bytes and one more for every one bit. -/
def Obligations.TextOfATrain : Prop :=
  ∀ f : BitVec 72, render (serialize f) =
    ['+', '4', '4', '9', '6', ' ', '-', '4', '4', '1', '4', ' ']
      ++ (List.range 72).flatMap (fun i =>
        if f.getLsbD (71 - i) then ['+', '5', '9', '1', ' ', '-', '1', '6', '4', '3', ' ']
        else ['+', '5', '9', '1', ' ', '-', '5', '9', '1', ' '])
      ++ ['+', '6', '0', '0', ' '] ∧
    (render (serialize f)).length = 737 + popcount f

/-- R127: were each slot to last its duration, a train would take 94614 microseconds and 1052 for every one bit. -/
def Obligations.AirTimeOfATrain : Prop :=
  ∀ f : BitVec 72, airTime (serialize f) = 94614 + 1052 * popcount f

/-! ### The assembler (R57) -/

/-- R57: the spec's example line, with capitals, spaces and a comment. -/
def Obligations.AssemblerExample : Prop :=
  assembleLine ['M', 'F', 'T', ' ', 'A', ',', ' ', 'P', 'o', 'w', 'e', 'r', 'O', 'f', 'f', ',', ' ', 'N', 'o', 'n', 'e', ',',
    ' ', 'A', 'u', 't', 'o', ',', ' ', '2', '3', ' ', ';', ' ', 'x'] = .ok [0x10400017#32]
end

