-- ==== Sys2Proof/Laws/Encoding.lean ====
section
/-! SUPPORT. Where the encoder puts each operand (R41 to R44), and that each selector names its own enum value (R46). -/

namespace Sys2Proof

open BitVec

/-! ### Fields of an `MFT` word -/

section
variable (u : AcUnit) (m : AcMode) (sp : SpecialMode) (f : FanSpeed) (t : BitVec 8)

theorem encode_mft_op : (encode (.mft u m sp f t)).extractLsb' 28 4 = 1#4 := by
  iterate 8 refine (extractLsb'_append_eq_of_le (by decide)).trans ?_
  rfl

theorem encode_mft_unit : (encode (.mft u m sp f t)).extractLsb' 24 1 = u.selector := by
  iterate 7 refine (extractLsb'_append_eq_of_le (by decide)).trans ?_
  exact extractLsb'_append_eq_right

theorem encode_mft_mode : (encode (.mft u m sp f t)).extractLsb' 20 3 = m.selector := by
  iterate 5 refine (extractLsb'_append_eq_of_le (by decide)).trans ?_
  exact extractLsb'_append_eq_right

theorem encode_mft_fan : (encode (.mft u m sp f t)).extractLsb' 16 3 = f.selector := by
  iterate 3 refine (extractLsb'_append_eq_of_le (by decide)).trans ?_
  exact extractLsb'_append_eq_right

theorem encode_mft_special : (encode (.mft u m sp f t)).extractLsb' 8 2 = sp.selector := by
  refine (extractLsb'_append_eq_of_le (by decide)).trans ?_
  exact extractLsb'_append_eq_right

theorem encode_mft_temp : (encode (.mft u m sp f t)).extractLsb' 0 8 = t := extractLsb'_append_eq_right

end

/-! ### Fields of the other words -/

theorem encode_fix_unit (u : AcUnit) : (encode (.fix u)).extractLsb' 24 1 = u.selector := by cases u <;> rfl

theorem encode_swing_unit (u : AcUnit) : (encode (.swing u)).extractLsb' 24 1 = u.selector := by cases u <;> rfl

theorem encode_hdr_op (c : BitVec 16) : (encode (.hdr c)).extractLsb' 28 4 = 4#4 := by
  iterate 2 refine (extractLsb'_append_eq_of_le (by decide)).trans ?_
  rfl

theorem encode_hdr_cmd (c : BitVec 16) : (encode (.hdr c)).extractLsb' 0 16 = c := extractLsb'_append_eq_right

/-! ### Selectors -/

@[simp] theorem AcUnit.ofSelector_selector (u : AcUnit) : AcUnit.ofSelector u.selector = u := by cases u <;> rfl
@[simp] theorem AcMode.ofSelector_selector (m : AcMode) : AcMode.ofSelector m.selector = some m := by cases m <;> rfl
@[simp] theorem FanSpeed.ofSelector_selector (f : FanSpeed) : FanSpeed.ofSelector f.selector = some f := by
  cases f <;> rfl
@[simp] theorem SpecialMode.ofSelector_selector (sp : SpecialMode) :
    SpecialMode.ofSelector sp.selector = some sp := by cases sp <;> rfl

/-! ### Rows -/

/-- A row that tests the whole opcode does not match a word of another opcode. -/
theorem not_matches_of_opcode {r : OpcodeRow} {w : Word} (hm : r.mask.extractLsb' 28 4 = 15#4)
    (hne : w.extractLsb' 28 4 ≠ r.matchBits.extractLsb' 28 4) : r.matches w = false := by
  rw [OpcodeRow.matches, beq_eq_false_iff_ne]
  intro he
  have : (w &&& r.mask).extractLsb' 28 4 = w.extractLsb' 28 4 := by
    rw [extractLsb'_and, hm]
    exact and_allOnes
  exact hne (by rw [← this, he])

/-- Every row of the map tests the whole opcode. -/
theorem rows_test_opcode : ∀ r ∈ opcodeRows, r.mask.extractLsb' 28 4 = 15#4 := by decide

/-- No two rows have the same opcode. -/
theorem rows_opcode_distinct :
    ∀ r ∈ opcodeRows, ∀ r' ∈ opcodeRows, r.matchBits.extractLsb' 28 4 = r'.matchBits.extractLsb' 28 4 → r = r' := by
  decide

theorem mftRow_matches_encode (u : AcUnit) (m : AcMode) (sp : SpecialMode) (f : FanSpeed) (t : BitVec 8) :
    mftRow.matches (encode (.mft u m sp f t)) = true := by
  have low : ∀ x : BitVec 24, x &&& 0xFE88FC#24 = 0x100000#24 →
      (x ++ t : Word) &&& 0xFE88FC00#32 = 0x10000000#32 := by
    intro x hx
    refine (and_append (x₂ := 0xFE88FC#24) (y₂ := 0#8)).trans ?_
    rw [hx, and_zero]
    rfl
  rw [OpcodeRow.matches, beq_iff_eq]
  refine low _ ?_
  cases u <;> cases m <;> cases sp <;> cases f <;> rfl

theorem hdrRow_matches_encode (c : BitVec 16) : hdrRow.matches (encode (.hdr c)) = true := by
  rw [OpcodeRow.matches, beq_iff_eq]
  refine (and_append (x₁ := 0x4000#16) (x₂ := 0xFFFF#16) (y₁ := c) (y₂ := 0#16)).trans ?_
  rw [and_zero]
  rfl

end Sys2Proof
end

