-- ==== Sys2Proof/Laws/State.lean ====
section
/-! SUPPORT. For each update of the state, what each field holds after it (all true by rfl), so that no later proof unfolds
a record update. -/

namespace Sys2Proof.Machine

variable (s : State)

/-! ### `commit` -/

@[simp] theorem commit_hdr (f : Frame) : (commit f s).hdr = some f.hdr := rfl
@[simp] theorem commit_stw (f : Frame) : (commit f s).stw = some f.stw := rfl
@[simp] theorem commit_endb (f : Frame) : (commit f s).endb = some f.endb := rfl
@[simp] theorem commit_hv (f : Frame) : (commit f s).hv = true := rfl
@[simp] theorem commit_fv (f : Frame) : (commit f s).fv = true := rfl
@[simp] theorem commit_busy (f : Frame) : (commit f s).busy = s.busy := rfl
@[simp] theorem commit_err (f : Frame) : (commit f s).err = .errNone := rfl
@[simp] theorem commit_slot (f : Frame) : (commit f s).slot = s.slot := rfl
@[simp] theorem commit_program (f : Frame) : (commit f s).program = s.program := rfl
@[simp] theorem commit_pc (f : Frame) : (commit f s).pc = s.pc := rfl
@[simp] theorem commit_moves (f : Frame) : (commit f s).moves = s.moves := rfl
@[simp] theorem commit_draws (f : Frame) : (commit f s).draws = s.draws := rfl
@[simp] theorem commit_history (f : Frame) : (commit f s).history = s.history := rfl

/-! ### `reject` -/

@[simp] theorem reject_hdr (c : ErrCode) : (reject c s).hdr = none := rfl
@[simp] theorem reject_stw (c : ErrCode) : (reject c s).stw = none := rfl
@[simp] theorem reject_endb (c : ErrCode) : (reject c s).endb = none := rfl
@[simp] theorem reject_hv (c : ErrCode) : (reject c s).hv = false := rfl
@[simp] theorem reject_fv (c : ErrCode) : (reject c s).fv = false := rfl
@[simp] theorem reject_busy (c : ErrCode) : (reject c s).busy = s.busy := rfl
@[simp] theorem reject_err (c : ErrCode) : (reject c s).err = c := rfl
@[simp] theorem reject_slot (c : ErrCode) : (reject c s).slot = s.slot := rfl
@[simp] theorem reject_program (c : ErrCode) : (reject c s).program = s.program := rfl
@[simp] theorem reject_pc (c : ErrCode) : (reject c s).pc = s.pc := rfl
@[simp] theorem reject_moves (c : ErrCode) : (reject c s).moves = s.moves := rfl
@[simp] theorem reject_draws (c : ErrCode) : (reject c s).draws = s.draws := rfl
@[simp] theorem reject_history (c : ErrCode) : (reject c s).history = s.history := rfl

/-! ### `setHeader` -/

@[simp] theorem setHeader_hdr (h : Word) : (setHeader h s).hdr = some h := rfl
@[simp] theorem setHeader_stw (h : Word) : (setHeader h s).stw = none := rfl
@[simp] theorem setHeader_endb (h : Word) : (setHeader h s).endb = none := rfl
@[simp] theorem setHeader_hv (h : Word) : (setHeader h s).hv = true := rfl
@[simp] theorem setHeader_fv (h : Word) : (setHeader h s).fv = false := rfl
@[simp] theorem setHeader_busy (h : Word) : (setHeader h s).busy = s.busy := rfl
@[simp] theorem setHeader_err (h : Word) : (setHeader h s).err = .errNone := rfl
@[simp] theorem setHeader_slot (h : Word) : (setHeader h s).slot = s.slot := rfl
@[simp] theorem setHeader_program (h : Word) : (setHeader h s).program = s.program := rfl
@[simp] theorem setHeader_pc (h : Word) : (setHeader h s).pc = s.pc := rfl
@[simp] theorem setHeader_moves (h : Word) : (setHeader h s).moves = s.moves := rfl
@[simp] theorem setHeader_draws (h : Word) : (setHeader h s).draws = s.draws := rfl
@[simp] theorem setHeader_history (h : Word) : (setHeader h s).history = s.history := rfl

/-! ### `startTrain` -/

@[simp] theorem startTrain_hdr : (startTrain s).hdr = s.hdr := rfl
@[simp] theorem startTrain_stw : (startTrain s).stw = s.stw := rfl
@[simp] theorem startTrain_endb : (startTrain s).endb = s.endb := rfl
@[simp] theorem startTrain_hv : (startTrain s).hv = s.hv := rfl
@[simp] theorem startTrain_fv : (startTrain s).fv = s.fv := rfl
@[simp] theorem startTrain_busy : (startTrain s).busy = true := rfl
@[simp] theorem startTrain_err : (startTrain s).err = .errNone := rfl
@[simp] theorem startTrain_slot : (startTrain s).slot = 0 := rfl
@[simp] theorem startTrain_program : (startTrain s).program = s.program := rfl
@[simp] theorem startTrain_pc : (startTrain s).pc = s.pc := rfl
@[simp] theorem startTrain_moves : (startTrain s).moves = s.moves := rfl
@[simp] theorem startTrain_draws : (startTrain s).draws = s.draws := rfl
@[simp] theorem startTrain_history : (startTrain s).history = s.history := rfl

/-! ### `resetBlock` -/

@[simp] theorem resetBlock_hdr : (resetBlock s).hdr = none := rfl
@[simp] theorem resetBlock_stw : (resetBlock s).stw = none := rfl
@[simp] theorem resetBlock_endb : (resetBlock s).endb = none := rfl
@[simp] theorem resetBlock_hv : (resetBlock s).hv = false := rfl
@[simp] theorem resetBlock_fv : (resetBlock s).fv = false := rfl
@[simp] theorem resetBlock_busy : (resetBlock s).busy = false := rfl
@[simp] theorem resetBlock_err : (resetBlock s).err = .errNone := rfl
@[simp] theorem resetBlock_slot : (resetBlock s).slot = 0 := rfl
@[simp] theorem resetBlock_program : (resetBlock s).program = s.program := rfl
@[simp] theorem resetBlock_pc : (resetBlock s).pc = s.pc := rfl
@[simp] theorem resetBlock_moves : (resetBlock s).moves = s.moves := rfl
@[simp] theorem resetBlock_draws : (resetBlock s).draws = s.draws := rfl
@[simp] theorem resetBlock_history : (resetBlock s).history = s.history ++ [.wasReset] := rfl

/-! ### `recordAccept` -/

@[simp] theorem recordAccept_hdr (w : Word) : (recordAccept w s).hdr = s.hdr := rfl
@[simp] theorem recordAccept_stw (w : Word) : (recordAccept w s).stw = s.stw := rfl
@[simp] theorem recordAccept_endb (w : Word) : (recordAccept w s).endb = s.endb := rfl
@[simp] theorem recordAccept_hv (w : Word) : (recordAccept w s).hv = s.hv := rfl
@[simp] theorem recordAccept_fv (w : Word) : (recordAccept w s).fv = s.fv := rfl
@[simp] theorem recordAccept_busy (w : Word) : (recordAccept w s).busy = s.busy := rfl
@[simp] theorem recordAccept_err (w : Word) : (recordAccept w s).err = s.err := rfl
@[simp] theorem recordAccept_slot (w : Word) : (recordAccept w s).slot = s.slot := rfl
@[simp] theorem recordAccept_program (w : Word) : (recordAccept w s).program = s.program := rfl
@[simp] theorem recordAccept_pc (w : Word) : (recordAccept w s).pc = s.pc + 1 := rfl
@[simp] theorem recordAccept_moves (w : Word) : (recordAccept w s).moves = s.moves := rfl
@[simp] theorem recordAccept_draws (w : Word) : (recordAccept w s).draws = s.draws := rfl
@[simp] theorem recordAccept_history (w : Word) : (recordAccept w s).history = s.history ++ [.accepted w s.err] := rfl

end Sys2Proof.Machine
end

