-- ==== Sys2Proof/Laws/Ops.lean ====
section
/-! SUPPORT. One lemma per shared operation that says everything it can do, for proofs to cite instead of unfolding it. -/

namespace Sys2Proof.Machine

open Protocol

/-- A held word changes nothing; an accepted one has its effect. -/
theorem whenAccepting_cases {effect : State → State} {s t : State} (h : whenAccepting effect s = .next t) :
    (s.busy = true ∧ t = s) ∨ (s.busy = false ∧ t = effect s) := by
  simp only [whenAccepting, Host.Outcome.next.injEq] at h
  cases hb : s.busy <;> simp_all

theorem whenAccepting_idle {effect : State → State} {s : State} (h : s.busy = false) :
    whenAccepting effect s = .next (effect s) := by
  simp [whenAccepting, h]

/-- The command bytes of the mode/fan/temperature family pass the check of `buildHeader` (R65). -/
theorem buildAndCommit_mft (u : AcUnit) (w : Word) (e : Byte) (s : State) :
    buildAndCommit (commandByte u familyMft) w e s = commit ⟨mftHeaderOf u, w, e⟩ s := by
  cases u <;> rfl

/-- The command bytes of the fix/swing family pass the check of `buildHeader` (R66). -/
theorem buildAndCommit_fixSwing (u : AcUnit) (w : Word) (e : Byte) (s : State) :
    buildAndCommit (commandByte u familyFixSwing) w e s = commit ⟨fixSwingHeaderOf u, w, e⟩ s := by
  cases u <;> rfl

/-- A register read records the value held, or draws an arbitrary one; it touches no other field. -/
theorem readPort_cases (i : BitVec 2) (s : State) :
    (∃ v, regValue i s = some v ∧ readPort i s = { s with history := s.history ++ [.readBack i v] }) ∨
    (regValue i s = none ∧ readPort i s =
      { s with draws := s.draws + 1, history := s.history ++ [.readBack i (Config.noValueRead s.draws)] }) := by
  unfold readPort
  split
  · next v hv => exact .inl ⟨v, hv, rfl⟩
  · next hn => exact .inr ⟨hn, rfl⟩

/-- The serializer's step emits slot `SLOT` and advances, or ends the train at slot 146 (R82). -/
theorem serializerStep_cases (s : State) :
    (s.slot.val = 146 ∧ serializerStep s =
      { s with draws := s.draws + frameDraws s, history := s.history ++ [.emitted (slotAt (frameRead s) s.slot.val)],
               busy := false, slot := 0 }) ∨
    (s.slot.val ≠ 146 ∧ serializerStep s =
      { s with draws := s.draws + frameDraws s, history := s.history ++ [.emitted (slotAt (frameRead s) s.slot.val)],
               slot := s.slot + 1 }) := by
  by_cases h : s.slot.val = 146
  · exact .inl ⟨h, by simp [serializerStep, lastSlot, h]⟩
  · exact .inr ⟨h, by simp [serializerStep, lastSlot, h]⟩

/-- With a frame in the registers the serializer reads that frame and draws nothing. -/
theorem frameRead_of_held {s : State} {h w : Word} {e : Byte} (hh : s.hdr = some h) (hw : s.stw = some w)
    (he : s.endb = some e) : frameRead s = Frame.bits ⟨h, w, e⟩ ∧ frameDraws s = 0 := by
  simp [frameRead, frameDraws, Frame.bits, hh, hw, he]

end Sys2Proof.Machine
end

