-- ==== Sys2Proof/Laws/PerInstr.lean ====
section
/-! SUPPORT. Statements made per instruction. `EncodedRow`: the word the encoder gives an operation matches that operation's
row of the opcode map and no other (R45). -/

namespace Sys2Proof.Laws.EncodedRow

/-- Of the five rows exactly the operation's own matches its word. -/
def Statement (i : Instr) : Prop := opcodeRows.filter (·.matches (encode i)) = [i.row]

/-- If a row of the map matches a word, then no other row does: the others have another opcode. -/
theorem only_row {w : Word} {r : OpcodeRow} (hr : r ∈ opcodeRows) (hw : r.matches w = true) :
    opcodeRows.filter (·.matches w) = [r] := by
  have op : ∀ r' ∈ opcodeRows, r'.matches w = true → w.extractLsb' 28 4 = r'.matchBits.extractLsb' 28 4 := by
    intro r' hr' hm
    by_contra hne
    rw [not_matches_of_opcode (rows_test_opcode r' hr') hne] at hm
    cases hm
  have same : ∀ r' ∈ opcodeRows, r'.matches w = decide (r' = r) := by
    intro r' hr'
    by_cases h : r' = r
    · simp [h, hw]
    · cases hm : r'.matches w with
      | false => simp [h]
      | true => exact absurd (rows_opcode_distinct r' hr' r hr ((op r' hr' hm).symm.trans (op r hr hw))) h
  rw [List.filter_congr same]
  clear hw op same
  revert r
  decide

theorem mft (u : AcUnit) (m : AcMode) (sp : SpecialMode) (f : FanSpeed) (t : BitVec 8) :
    Statement (.mft u m sp f t) :=
  only_row (r := mftRow) (by decide) (mftRow_matches_encode u m sp f t)

theorem fix (u : AcUnit) : Statement (.fix u) :=
  only_row (r := fixRow) (by decide) (by cases u <;> decide)

theorem swing (u : AcUnit) : Statement (.swing u) :=
  only_row (r := swingRow) (by decide) (by cases u <;> decide)

theorem hdr (c : BitVec 16) : Statement (.hdr c) :=
  only_row (r := hdrRow) (by decide) (hdrRow_matches_encode c)

theorem send : Statement .send := only_row (r := sendRow) (by decide) (by decide)

end Sys2Proof.Laws.EncodedRow
end

