-- ==== Sys2Proof/Laws/Step.lean ====
section
/-! SUPPORT. What `exec`, accepting a word and a step can do, each said once. -/

namespace Sys2Proof.Machine

/-- The effects an accepted operation can have on the block: a frame, a rejection, a header alone, a train started. -/
theorem exec_cases {i : Instr} {s t : State} (h : exec i s = .next t) :
    (s.busy = true ∧ t = s) ∨
    (s.busy = false ∧
      ((∃ f, t = commit f s) ∨ (∃ c, c ≠ .errNone ∧ t = reject c s) ∨
        (∃ c w, i = .hdr c ∧ buildHeader c = .ok w ∧ t = setHeader w s) ∨
        (i = .send ∧ s.fv = true ∧ t = startTrain s))) := by
  cases i with
  | mft u m sp f v =>
    rw [exec, execMft] at h
    refine (whenAccepting_cases h).imp id fun ⟨hb, ht⟩ => ⟨hb, ?_⟩
    split at ht
    · exact .inr (.inl ⟨_, by decide, ht⟩)
    · rw [buildAndCommit_mft] at ht
      exact .inl ⟨_, ht⟩
  | fix u =>
    rw [exec, execFix] at h
    refine (whenAccepting_cases h).imp id fun ⟨hb, ht⟩ => ⟨hb, ?_⟩
    rw [buildAndCommit_fixSwing] at ht
    exact .inl ⟨_, ht⟩
  | swing u =>
    rw [exec, execSwing] at h
    refine (whenAccepting_cases h).imp id fun ⟨hb, ht⟩ => ⟨hb, ?_⟩
    rw [buildAndCommit_fixSwing] at ht
    exact .inl ⟨_, ht⟩
  | hdr c =>
    rw [exec, execHdr] at h
    refine (whenAccepting_cases h).imp id fun ⟨hb, ht⟩ => ⟨hb, ?_⟩
    split at ht
    · next e he =>
      refine .inr (.inl ⟨e, ?_, ht⟩)
      unfold buildHeader at he
      split at he <;> cases he
      decide
    · next w hw => exact .inr (.inr (.inl ⟨c, w, rfl, hw, ht⟩))
  | send =>
    rw [exec, execSend] at h
    refine (whenAccepting_cases h).imp id fun ⟨hb, ht⟩ => ⟨hb, ?_⟩
    split at ht
    · next hf => exact .inr (.inr (.inr ⟨rfl, hf, ht⟩))
    · exact .inr (.inl ⟨_, by decide, ht⟩)

/-- An accepted word is illegal and rejected, or executed; either way it is recorded with its outcome. -/
theorem acceptWord_cases {w : Word} {s t : State} (h : acceptWord w s = .next t) :
    (∃ e, decode w = .error e ∧ t = recordAccept w (reject .illegalWord s)) ∨
    (∃ i u, decode w = .ok i ∧ exec i s = .next u ∧ t = recordAccept w u) := by
  unfold acceptWord at h
  split at h
  · next e he =>
    cases h
    exact .inl ⟨e, he, rfl⟩
  · next i hi =>
    split at h <;> cases h
    next u hu => exact .inr ⟨i, u, hi, hu, rfl⟩

/-- What the block does when it proceeds. -/
theorem proceed_cases {s t : State} (h : proceed s = .next t) :
    (s.busy = true ∧ t = serializerStep s) ∨
    (s.busy = false ∧ ∃ w, presentedWord s = some w ∧ acceptWord w s = .next t) ∨
    (s.busy = false ∧ presentedWord s = none ∧ t = s) := by
  unfold proceed at h
  cases hb : s.busy with
  | true =>
    rw [if_pos hb] at h
    cases h
    exact .inl ⟨rfl, rfl⟩
  | false =>
    rw [if_neg (by simp [hb])] at h
    split at h
    · next w hw => exact .inr (.inl ⟨rfl, w, hw, h⟩)
    · next hn =>
      cases h
      exact .inr (.inr ⟨rfl, hn, rfl⟩)

/-- `s` as it stands when the block proceeds: the host's next move, if any, was to let it. -/
def Proceeds (s s' : State) : Prop :=
  (s.moves = [] ∧ s' = s) ∨ ∃ ms, s.moves = .proceed :: ms ∧ s' = { s with moves := ms }

/-- Everything a step can do. -/
theorem step_cases {s t : State} (h : step s = .next t) :
    (∃ i ms, s.moves = .read i :: ms ∧ t = readPort i { s with moves := ms }) ∨
    (∃ ms, s.moves = .reset :: ms ∧ t = resetBlock { s with moves := ms }) ∨
    (∃ s', Proceeds s s' ∧ proceed s' = .next t) := by
  unfold step nextStep at h
  split at h
  · next hm => exact .inr (.inr ⟨s, .inl ⟨hm, rfl⟩, h⟩)
  · next m ms hm =>
    cases m with
    | proceed => exact .inr (.inr ⟨_, .inr ⟨ms, hm, rfl⟩, h⟩)
    | read i =>
      cases h
      exact .inl ⟨i, ms, hm, rfl⟩
    | reset =>
      cases h
      exact .inr (.inl ⟨ms, hm, rfl⟩)

end Sys2Proof.Machine
end

