-- ==== Sys2Proof/Laws/Run.lean ====
section
/-! SUPPORT. Runs one step at a time. -/

namespace Sys2Proof.Machine

theorem run_zero (s : State) : core.run 0 s = .next s := rfl

/-- A run whose first step answers `t` goes on from `t`. -/
theorem run_succ {s t : State} (n : Nat) (h : step s = .next t) : core.run (n + 1) s = core.run n t := by
  have h' : core.step s = .next t := h
  simp only [Host.Core.run, h']

/-- With no move of the host left the block proceeds. -/
theorem step_no_moves {s : State} (h : s.moves = []) : step s = proceed s := by
  simp [step, nextStep, h]

/-- Whenever the host lets the block proceed, with no move left or with `proceed` next, the step is the block's own. -/
theorem step_of_proceed {s : State} (h : s.moves = [] ∨ ∃ ms, s.moves = .proceed :: ms) :
    step s = proceed { s with moves := s.moves.tail } := by
  rcases h with h | ⟨ms, h⟩
  · have hs : { s with moves := s.moves.tail } = s := by
      cases s
      simp_all
    rw [hs, step_no_moves h]
  · simp [step, nextStep, h, hostMove]

/-- One more event at the end of the record. -/
theorem emittedSlots_concat (h : List Event) (e : Event) :
    emittedSlots (h ++ [e]) = emittedSlots h ++ (match e with | .emitted p => [p] | _ => []) := by
  cases e <;> simp [emittedSlots]

theorem acceptedWords_concat (h : List Event) (e : Event) :
    acceptedWords (h ++ [e]) = acceptedWords h ++ (match e with | .accepted w _ => [w] | _ => []) := by
  cases e <;> simp [acceptedWords]

theorem currentTrain_concat (h : List Event) (e : Event) :
    currentTrain (h ++ [e]) = extendTrain (currentTrain h) e := by
  simp [currentTrain]

end Sys2Proof.Machine
end

