-- ==== Sys2Proof/Tests/Slice0.lean ====
section
/-! SUPPORT. Tests on small states: the words and frames of spec/95_test_vectors.md and words written out from R41 to R44,
and a witness for the hypotheses of every statement that has some. -/

namespace Sys2Proof.Tests

open Sys2Proof.Machine

/-! ### Small states -/

/-- An idle host that presents `w`. -/
def presenting (w : Word) : State := { State.reset with program := [w] }

/-- After `FIX A` (V-FIX-1). -/
def holdingFix : State :=
  { State.reset with hdr := some 0xF20D01FE#32, stw := some 0x21002100#32, endb := some 0x60#8, hv := true, fv := true }

/-- After `FIX A` and `SEND`, with the word of `FIX B` presented. -/
def sendingFix : State :=
  { holdingFix with busy := true, program := [0x21000000#32], history := [.accepted 0x50000000#32 .errNone] }

/-- The state a step answers. -/
def nextOf (o : Host.Outcome State Fault Refusal) : State :=
  match o with
  | .next t => t
  | _ => State.reset

/-- The frame registers and `STATUS` after the word is accepted from reset (95_test_vectors.md parts 2.1 to 2.4). -/
def vector (w : Word) : Option Word × Option Word × Option Byte × Word :=
  let t := nextOf (step (State.reset.withFetchWord 32 w.toNat))
  (t.hdr, t.stw, t.endb, t.status)

/-! ### Decoding: words written out from the format tables R41 to R44 -/

theorem test_decode_mft : -- OP 0001, 000, UNIT 1, 0, MODE 011, 0, FAN 010, 000000, SPECIAL 01, TEMP 00010101
    decode 0b0001_000_1_0_011_0_010_000000_01_00010101#32 = .ok (.mft .b .heating .hiPower .speed2 21#8) := by decide
theorem test_decode_fix : decode 0b0010_000_1_000000000000000000000000#32 = .ok (.fix .b) := by decide
theorem test_decode_swing : decode 0b0011_000_0_000000000000000000000000#32 = .ok (.swing .a) := by decide
theorem test_decode_hdr : decode 0b0100_000000000000_0000000100000000#32 = .ok (.hdr 0x100#16) := by decide
theorem test_decode_send : decode 0b0101_0000000000000000000000000000#32 = .ok .send := by decide
theorem test_encode_mft : encode (.mft .a .powerOff .noSpecial .auto 23#8) = 0x10400017#32 := by decide
theorem test_decodeTableWord : decodeTableWord 32 0x1145001E = some (.mft .b .powerOff .noSpecial .speed5 30#8) := by
  decide

/-- V-DEC-1 to V-DEC-8. -/
theorem test_decode_reserved :
    [0x00000000#32, 0x60000000#32, 0xF0000000#32, 0xFFFFFFFF#32].map decode =
      List.replicate 4 (.error .reservedOpcode) ∧
    [0x10500017#32, 0x10460017#32, 0x10470017#32, 0x10400317#32].map decode =
      List.replicate 4 (.error .reservedSelector) := by decide

/-- V-DEC-9 to V-DEC-20: every must-be-zero bit tested there. -/
theorem test_decode_must_be_zero :
    [0x12400017#32, 0x14400017#32, 0x18400017#32, 0x10C00017#32, 0x10480017#32, 0x10400417#32, 0x10408017#32,
      0x20000001#32, 0x22000000#32, 0x50000001#32, 0x51000000#32, 0x40010000#32].map decode =
      List.replicate 12 (.error .mustBeZero) := by decide

/-! ### Well-formed words: one ill-formed word for each check -/

theorem test_wf_opcode : opcodeAssigned 0x60000000#32 = false ∧ opcodeAssigned 0x00000000#32 = false := by decide
theorem test_wf_reserved_mft :
    [0x12400017#32, 0x10C00017#32, 0x10480017#32, 0x10400417#32].map reservedBitsZero = List.replicate 4 false := by
  decide
theorem test_wf_reserved_others :
    [0x22000000#32, 0x20000001#32, 0x32000000#32, 0x40010000#32, 0x50000001#32].map reservedBitsZero =
      List.replicate 5 false := by decide
theorem test_wf_selectors :
    [0x10500017#32, 0x10460017#32, 0x10400317#32].map selectorsNamed = List.replicate 3 false := by decide
theorem test_wf_legal :
    [0x10450217#32, 0x21000000#32, 0x30000000#32, 0x4000FFFF#32, 0x50000000#32].map wordLegal =
      List.replicate 5 true := by decide

/-! ### The operations, by the vectors of the spec -/

/-- V-MFT-1, the source's own example, and V-MFT-12. -/
theorem test_mft :
    vector 0x10400017#32 = (some 0xF20D03FC#32, some 0x01600700#32, some 0x66#8, 0x3#32) ∧
    vector 0x1145001E#32 = (some 0xF20D13EC#32, some 0x01D0C700#32, some 0x16#8, 0x3#32) := by decide

/-- V-MFT-4 to V-MFT-7. -/
theorem test_mft_rejected :
    [0x10400010#32, 0x1040001F#32, 0x10400000#32, 0x104000FF#32].map vector =
      List.replicate 4 (none, none, none, 0x20#32) := by decide

/-- V-FIX-1, V-FIX-2. -/
theorem test_fix :
    vector 0x20000000#32 = (some 0xF20D01FE#32, some 0x21002100#32, some 0x60#8, 0x3#32) ∧
    vector 0x21000000#32 = (some 0xF20D11EE#32, some 0x21002100#32, some 0x60#8, 0x3#32) := by decide

/-- V-SWG-1, V-SWG-2. -/
theorem test_swing :
    vector 0x30000000#32 = (some 0xF20D01FE#32, some 0x21042500#32, some 0x60#8, 0x3#32) ∧
    vector 0x31000000#32 = (some 0xF20D11EE#32, some 0x21042500#32, some 0x60#8, 0x3#32) := by decide

/-- V-HDR-1, V-HDR-5, V-HDR-7. -/
theorem test_hdr :
    [0x40000000#32, 0x40000013#32, 0x400000FF#32].map vector =
      [(some 0xF20D00FF#32, none, none, 0x1#32), (some 0xF20D13EC#32, none, none, 0x1#32),
        (some 0xF20DFF00#32, none, none, 0x1#32)] := by decide

/-- V-HDR-8, V-HDR-9. -/
theorem test_hdr_rejected :
    [0x40000100#32, 0x4000FFFF#32].map vector = List.replicate 2 (none, none, none, 0x10#32) := by decide

/-- V-ERR-1. -/
theorem test_send_without_frame : vector 0x50000000#32 = (none, none, none, 0x40#32) := by decide

/-- V-ERR-6. -/
theorem test_send :
    (nextOf (step (holdingFix.withFetchWord 32 0x50000000))).status = 0x7#32 ∧
    (nextOf (step (holdingFix.withFetchWord 32 0x50000000))).stw = holdingFix.stw := by decide

/-- V-DEC-1, V-DEC-23: an illegal word is rejected with code 3 and not with another. -/
theorem test_illegal_word :
    [0x00000000#32, 0x1050001F#32].map vector = List.replicate 2 (none, none, none, 0x30#32) := by decide

/-- The packing of V-MFT-16 and V-MFT-17 under the instance G1 of the open codes (Heating 3, Cooling 1). -/
theorem test_packState_G1 :
    packState 1#4 21#8 4#3 3#3 = 0x01408300#32 ∧ packState 9#4 18#8 6#3 1#3 = 0x0910C100#32 := by decide

/-- V-MFT-15, V-MFT-17: what the open codes leave of the vectors holds whatever they are. -/
theorem test_mft_open_codes :
    (nextOf (exec (.mft .a .cooling .hiPower .speed5 18#8) State.reset)).endb = Protocol.specialCode .hiPower ∧
    (nextOf (exec (.mft .a .cooling .noSpecial .auto 24#8) State.reset)).hdr = some 0xF20D03FC#32 := by
  refine ⟨?_, ?_⟩ <;> rfl

/-! ### Serializer, text, reads, reset, assembler -/

/-- The slots named in the check of V-SER-1. -/
theorem test_slots :
    [0, 1, 2, 3, 11, 65, 67, 129, 131, 133, 145, 146].map (slotAt 0xF20D03FC0160070066#72) =
      [⟨.mark, 4496#13⟩, ⟨.space, 4414#13⟩, ⟨.mark, 591#13⟩, ⟨.space, 1643#13⟩, ⟨.space, 591#13⟩, ⟨.space, 591#13⟩,
        ⟨.space, 591#13⟩, ⟨.space, 591#13⟩, ⟨.space, 591#13⟩, ⟨.space, 1643#13⟩, ⟨.space, 591#13⟩, ⟨.mark, 600#13⟩] := by
  decide

/-- V-SER-4: the trains of `FIX A` and `FIX B` differ in slots 41 and 57. -/
theorem test_fix_trains :
    (List.range 147).filter (fun k => slotAt 0xF20D01FE2100210060#72 k != slotAt 0xF20D11EE2100210060#72 k) = [41, 57] := by
  decide

/-- The six tokens (R56), with the trailing space. -/
theorem test_render :
    render [⟨.mark, 4496#13⟩, ⟨.space, 1643#13⟩, ⟨.mark, 600#13⟩] =
      ['+', '4', '4', '9', '6', ' ', '-', '1', '6', '4', '3', ' ', '+', '6', '0', '0', ' '] := by decide

/-- The bit counts of V-SER-1 and V-SER-7. -/
theorem test_popcount : popcount 0xF20D03FC0160070066#72 = 26 ∧ popcount 0xF20D13EC01D0C70016#72 = 28 := by decide

/-- The serializer's first and last step on `FIX A`; the presented word waits (V-ERR-7). -/
theorem test_serializer_step :
    (nextOf (step sendingFix)).slot = 1 ∧ (nextOf (step sendingFix)).pc = 0 ∧
    (nextOf (step { sendingFix with slot := 146 })).status = 0x3#32 ∧
    (nextOf (step { sendingFix with slot := 146 })).slot = 0 := by decide

/-- V-ERR-9: reads of a held frame, the end byte zero-extended. -/
theorem test_read :
    [0#2, 1#2, 2#2, 3#2].map (fun i => (nextOf (step { holdingFix with moves := [.read i] })).history) =
      [[.readBack 0#2 0xF20D01FE#32], [.readBack 1#2 0x21002100#32], [.readBack 2#2 0x60#32], [.readBack 3#2 0x3#32]] := by
  decide

/-- V-ERR-10: a read after reset returns a value, whichever, and the next draw is another. -/
theorem test_read_no_value :
    (nextOf (step { State.reset with moves := [.read 0#2] })).history = [.readBack 0#2 (Config.noValueRead 0)] ∧
    (nextOf (step { State.reset with moves := [.read 0#2] })).draws = 1 := by
  refine ⟨?_, ?_⟩ <;> rfl

/-- V-ERR-8: a reset in a train. -/
theorem test_reset_in_train :
    (nextOf (step { sendingFix with slot := 10, moves := [.reset] })).status = 0#32 ∧
    (nextOf (step { sendingFix with slot := 10, moves := [.reset] })).hdr = none := by decide

/-- The encodings of program P2 in the assembler's syntax: `XFIX B` is two words. -/
theorem test_assemble :
    assemble ['x', 'f', 'i', 'x', ' ', 'B', '\n', 'H', 'D', 'R', ' ', '0', 'x', '1', '3'] =
      .ok [0x21000000#32, 0x50000000#32, 0x40000013#32] ∧
    assembleLine ['b', 'u', 'i', 'l', 'd', 'F', 'i', 'x', '(', 'U', 'n', 'i', 't', 'A', ')'] = .ok [0x20000000#32] ∧
    assembleLine ['F', 'I', 'X', ' ', 'C'] = .error .badOperand := by decide

/-! ### Witnesses: the hypotheses of the statements can be met -/

theorem test_holdingFix_inv : holdingFix.Inv where
  hdr_held := rfl
  stw_held := rfl
  endb_held := rfl
  frame_has_header := fun _ => rfl
  header_ok := by
    intro h hh
    cases hh
    decide
  frame_built := by
    intro h w e hh hw he
    cases hh
    cases hw
    cases he
    exact .fix .a
  busy_frame := fun h => nomatch h
  busy_err := fun h => nomatch h
  idle_slot := fun _ => rfl

theorem test_sendingFix_inv : sendingFix.Inv :=
  { test_holdingFix_inv with
    busy_frame := fun _ => rfl
    busy_err := fun _ => rfl
    idle_slot := fun _ => rfl }

theorem test_witness_ResetEventRestoresTheBlock :
    { sendingFix with moves := [.reset] }.moves = .reset :: [] := rfl

theorem test_witness_ResetInATrainTruncatesIt :
    TrainSoFar { sendingFix with moves := [.reset] } ∧ { sendingFix with moves := [.reset] }.busy = true ∧
    ∃ t, step { sendingFix with moves := [.reset] } = .next t := ⟨fun _ => rfl, rfl, _, rfl⟩

theorem test_witness_EncodeOfDecodeIsTheWord : decode 0x4000FFFF#32 = .ok (.hdr 0xFFFF#16) := by decide

theorem test_witness_AtMostOneRowMatches : fixRow ∈ opcodeRows ∧ fixRow.matches 0x21000000#32 = true := by decide

/-- Both clauses at their boundary, 0xFF and 0x100. -/
theorem test_witness_BuildHeaderChecksThenPacks : (0xFF#16).toNat ≤ 0xFF ∧ 0xFF < (0x100#16).toNat := by decide

/-- Both clauses at their boundary, 0xFF and 0x100. -/
theorem test_witness_HdrBuildsAHeaderOrRejects :
    State.reset.busy = false ∧ (0xFF#16).toNat ≤ 0xFF ∧ 0xFF < (0x100#16).toNat := by decide

/-- The two ends of the range, just below and just above it. -/
theorem test_witness_MftBuildsItsFrameOrRejects :
    State.reset.busy = false ∧ 17 ≤ (17#8).toNat ∧ (17#8).toNat ≤ 30 ∧ 17 ≤ (30#8).toNat ∧ (30#8).toNat ≤ 30 ∧
    (16#8).toNat < 17 ∧ 30 < (31#8).toNat := by decide

theorem test_witness_StateWordHasTheLayout : 17 ≤ (30#8).toNat ∧ (30#8).toNat ≤ 30 := by decide

theorem test_witness_FixBuildsItsFrame : holdingFix.busy = false := rfl

theorem test_witness_SwingBuildsItsFrame : holdingFix.busy = false := rfl

theorem test_witness_BuiltFramesAreLegal :
    Built ⟨0xF20D01FE#32, 0x21002100#32, 0x60#8⟩ ∧
    (∃ t, exec (.mft .b .powerOff .noSpecial .speed1 17#8) State.reset = .next t ∧
      t.stw = some 0x01004700#32 ∧ t.endb = some 0x46#8) ∧
    (∃ t, exec (.swing .a) State.reset = .next t ∧ t.stw = some 0x21042500#32 ∧ t.endb = some 0x60#8) :=
  ⟨.fix .a, ⟨_, rfl, by decide, by decide⟩, ⟨_, rfl, rfl, rfl⟩⟩

theorem test_witness_InvalidCommandOnlyFromHdr :
    State.reset.busy = false ∧ (∃ t, exec (.hdr 0x100#16) State.reset = .next t) ∧
    (∀ c, Instr.fix .b ≠ .hdr c) ∧ Instr.fix .b ≠ .send ∧
    ∃ t, exec (.fix .b) State.reset = .next t ∧ t.hdr = some 0xF20D11EE#32 :=
  ⟨rfl, ⟨_, rfl⟩, nofun, nofun, _, rfl, by decide⟩

theorem test_witness_UnitsDifferInTwoHeaderBits :
    State.reset.busy = false ∧ 17 ≤ (17#8).toNat ∧ (17#8).toNat ≤ 30 ∧
    (∃ ta tb, exec (.fix .a) State.reset = .next ta ∧ exec (.fix .b) State.reset = .next tb) ∧
    (∃ ta tb, exec (.swing .a) State.reset = .next ta ∧ exec (.swing .b) State.reset = .next tb) ∧
    (∃ ta tb, exec (.mft .a .powerOff .eco .auto 17#8) State.reset = .next ta ∧
      exec (.mft .b .powerOff .eco .auto 17#8) State.reset = .next tb) :=
  ⟨rfl, by decide, by decide, ⟨_, _, rfl, rfl⟩, ⟨_, _, rfl, rfl⟩, ⟨_, _, rfl, rfl⟩⟩

theorem test_witness_BuildResultIgnoresTheState :
    Instr.hdr 3#16 ≠ .send ∧ State.reset.busy = false ∧ holdingFix.busy = false ∧
    ∃ t t', exec (.hdr 3#16) State.reset = .next t ∧ exec (.hdr 3#16) holdingFix = .next t' :=
  ⟨by decide, rfl, rfl, _, _, rfl, rfl⟩

theorem test_witness_SendStartsTheTrainOrRejects :
    holdingFix.busy = false ∧ holdingFix.fv = true ∧ State.reset.busy = false ∧ State.reset.fv = false :=
  ⟨rfl, rfl, rfl, rfl⟩

/-- A build, a `SEND` with a frame and a `SEND` without one. -/
theorem test_witness_OperationsLeaveTheRestUnchanged :
    (∃ t, exec (.fix .b) holdingFix = .next t) ∧ (∃ t, exec .send holdingFix = .next t) ∧ holdingFix.fv = true ∧
    (∃ t, exec .send State.reset = .next t) ∧ State.reset.fv = false :=
  ⟨⟨_, rfl⟩, ⟨_, rfl⟩, rfl, ⟨_, rfl⟩, rfl⟩

theorem test_witness_BusyBlockHoldsEveryOperation : sendingFix.busy = true := rfl

theorem test_witness_RejectionLeavesNothingToSend :
    holdingFix.busy = false ∧ ∃ t, exec (.hdr 0x100#16) holdingFix = .next t ∧ t.err ≠ .errNone :=
  ⟨rfl, _, rfl, by decide⟩

/-- Both clauses: no move left, and `proceed` next. -/
theorem test_witness_StepRunsTheDecodedInstruction :
    (presenting 0x21000000#32).busy = false ∧ (presenting 0x21000000#32).program[0]? = some 0x21000000#32 ∧
    decode 0x21000000#32 = .ok (.fix .b) ∧ (presenting 0x21000000#32).moves = [] ∧
    (∃ t, exec (.fix .b) (presenting 0x21000000#32) = .next t) ∧
    { presenting 0x21000000#32 with moves := [.proceed, .reset] }.moves = .proceed :: [.reset] :=
  ⟨rfl, rfl, by decide, rfl, ⟨_, rfl⟩, rfl⟩

/-- Both cases of the host's moves: none left, and `proceed` next. -/
theorem test_witness_IllegalWordIsRejected :
    { presenting 0x1050001F#32 with moves := [.proceed, .reset] }.moves = .proceed :: [.reset] ∧
    (presenting 0x1050001F#32).moves = [] ∧ (presenting 0x1050001F#32).busy = false ∧
    (presenting 0x1050001F#32).program[(presenting 0x1050001F#32).pc]? = some 0x1050001F#32 ∧
    wordLegal 0x1050001F#32 = false := by decide

theorem test_witness_IdleBlockWaits :
    { State.reset with moves := [.proceed] }.moves = .proceed :: [] ∧
    State.reset.moves = [] ∧ State.reset.busy = false ∧ State.reset.program.length ≤ State.reset.pc := by decide

/-- At slot 146 and before it, with no move left and with `proceed` next. -/
theorem test_witness_SerializerStepEmitsOneSlot :
    { sendingFix with moves := [.proceed, .read 0#2] }.moves = .proceed :: [.read 0#2] ∧
    sendingFix.moves = [] ∧ sendingFix.busy = true ∧ sendingFix.hdr = some 0xF20D01FE#32 ∧
    sendingFix.stw = some 0x21002100#32 ∧ sendingFix.endb = some 0x60#8 ∧ sendingFix.slot.val ≠ 146 ∧
    { sendingFix with slot := 146 }.slot.val = 146 := by decide

/-- At the last slot, where one step is left. -/
theorem test_witness_HeldWordWaitsForTheTrain :
    { sendingFix with slot := 146 }.Inv ∧ sendingFix.moves = [] ∧ sendingFix.busy = true ∧
    sendingFix.program[sendingFix.pc]? = some 0x21000000#32 ∧ 0 < 147 - (146 : Fin 147).val :=
  ⟨{ test_sendingFix_inv with idle_slot := fun h => nomatch h }, rfl, rfl, rfl, by decide⟩

theorem test_witness_FrameIsStableWhileBusy :
    sendingFix.busy = true ∧ (∃ t, step sendingFix = .next t) ∧ (∀ ms, sendingFix.moves ≠ .reset :: ms) :=
  ⟨rfl, ⟨_, rfl⟩, nofun⟩

/-- A word that is rejected, with no move left and with `proceed` next, and a `SEND` that starts the serializer. -/
theorem test_witness_AcceptanceEmitsNothing :
    { presenting 0#32 with moves := [.proceed] }.moves = .proceed :: [] ∧
    (∃ t, step { presenting 0#32 with moves := [.proceed] } = .next t) ∧
    (presenting 0#32).moves = [] ∧ (presenting 0#32).busy = false ∧
    (presenting 0#32).program[(presenting 0#32).pc]? = some 0#32 ∧
    (∃ t, step (presenting 0#32) = .next t ∧ t.err ≠ .errNone) ∧
    (∃ t, step (holdingFix.withFetchWord 32 0x50000000) = .next t ∧ t.busy = true) :=
  ⟨rfl, ⟨_, rfl⟩, rfl, rfl, rfl, ⟨_, rfl, by decide⟩, ⟨_, rfl, by decide⟩⟩

/-- One witness for each of the four registers. -/
theorem test_witness_ReadReturnsTheRegister :
    { holdingFix with moves := [.read 2#2] }.moves = .read 2#2 :: [] ∧ holdingFix.hdr = some 0xF20D01FE#32 ∧
    holdingFix.stw = some 0x21002100#32 ∧ (∃ e, holdingFix.endb = some e ∧ (0x60#32 : Word) = 0#24 ++ e) ∧
    (0x3#32 : Word) = holdingFix.status := ⟨rfl, rfl, rfl, ⟨_, rfl, rfl⟩, by decide⟩

/-- One witness for each of the three registers. -/
theorem test_witness_ReadOfNoValueReturnsSomeWord :
    { State.reset with moves := [.read 0#2] }.moves = .read 0#2 :: [] ∧ State.reset.hdr = none ∧ State.reset.stw = none ∧
    State.reset.endb = none := ⟨rfl, rfl, rfl, rfl⟩

theorem test_witness_EveryStepKeepsTheInvariant : sendingFix.Inv ∧ ∃ t, step sendingFix = .next t :=
  ⟨test_sendingFix_inv, _, rfl⟩

theorem test_witness_EveryStepKeepsTheTrain :
    sendingFix.Inv ∧ TrainSoFar sendingFix ∧ ∃ t, step sendingFix = .next t :=
  ⟨test_sendingFix_inv, fun _ => rfl, _, rfl⟩

theorem test_witness_OnlyWholeTrainsOfBuiltFramesAreEmitted :
    sendingFix.Inv ∧ OnlyWholeTrains sendingFix ∧ ∃ t, step sendingFix = .next t :=
  ⟨test_sendingFix_inv, fun _ => ⟨[], by simp, rfl⟩, _, rfl⟩

theorem test_witness_WordsAreAcceptedOnceAndInOrder :
    AcceptedInOrder (presenting 0x50000000#32) ∧ ∃ t, step (presenting 0x50000000#32) = .next t :=
  ⟨⟨by decide, rfl⟩, _, rfl⟩

theorem test_witness_ATrainIsSerializeOfTheFrame :
    sendingFix.moves = [] ∧ sendingFix.busy = true ∧ sendingFix.slot = 0 ∧ sendingFix.hdr = some 0xF20D01FE#32 ∧
    sendingFix.stw = some 0x21002100#32 ∧ sendingFix.endb = some 0x60#8 := by decide

theorem test_witness_EveryRunEnds : sendingFix.moves = [] := rfl

/-- A build that succeeds and one that is rejected. -/
theorem test_witness_FusedBuildAndSend :
    (∃ s : State, s.moves = [] ∧ s.busy = false ∧ (Pseudo.xfix .a).expand = [.fix .a, .send] ∧
      s.program[s.pc]? = some (encode (.fix .a)) ∧ s.program[s.pc + 1]? = some (encode .send) ∧
      (nextOf (step s)).err = .errNone) ∧
    (∃ s : State, s.moves = [] ∧ s.busy = false ∧
      (Pseudo.xmft .a .powerOff .noSpecial .auto 31#8).expand = [.mft .a .powerOff .noSpecial .auto 31#8, .send] ∧
      s.program[s.pc]? = some (encode (.mft .a .powerOff .noSpecial .auto 31#8)) ∧
      s.program[s.pc + 1]? = some (encode .send) ∧ (nextOf (step s)).err ≠ .errNone) :=
  ⟨⟨{ State.reset with program := [0x20000000#32, 0x50000000#32] }, by decide⟩,
    ⟨{ State.reset with program := [0x1040001F#32, 0x50000000#32] }, by decide⟩⟩

theorem test_witness_SerializeIsTheSlotMap : 71 < 72 ∧ 146 < 147 := by decide

theorem test_witness_TrainAlternatesMarksAndSpaces :
    (serialize 0#72)[0]? = some ⟨.mark, 4496#13⟩ ∧ (serialize 0#72)[2]? = some ⟨.mark, 591#13⟩ ∧
    (serialize 0#72)[146]? = some ⟨.mark, 600#13⟩ := by decide

theorem test_witness_TrainsDifferWhereTheFramesDiffer :
    146 < 147 ∧ (serialize 0#72)[145]? ≠ (serialize 1#72)[145]? ∧ (0#72).getLsbD 0 ≠ (1#72).getLsbD 0 := by decide

theorem test_witness_BuiltTrainsBeginWithTheHeaderByte : Built ⟨0xF20D11EE#32, 0x21042500#32, 0x60#8⟩ := .swing .b

theorem test_witness_HeaderReadsBackFromTheTrain : Built ⟨0xF20D11EE#32, 0x21002100#32, 0x60#8⟩ := .fix .b

end Sys2Proof.Tests
end

/-! ## Scope: the code tables (R5) and the uniform effect of a build (R3, R70 (g)) -/

namespace Sys2Proof.Machine

open Protocol

/-! ### The open codes (R5, log 6) -/

/-- Numbers that fit in `w` bits have the same bits only if they are equal. -/
theorem ofNat_inj_of_lt {w a b : Nat} (ha : a < 2 ^ w) (hb : b < 2 ^ w) :
    BitVec.ofNat w a = BitVec.ofNat w b ↔ a = b := by
  rw [← BitVec.toNat_inj, BitVec.toNat_ofNat, BitVec.toNat_ofNat, Nat.mod_eq_of_lt ha, Nat.mod_eq_of_lt hb]

theorem openModeCode_inj (i j : Fin 7) :
    BitVec.ofNat 3 (Config.openModeCodes i).val = BitVec.ofNat 3 (Config.openModeCodes j).val ↔ i = j := by
  rw [ofNat_inj_of_lt (by omega) (by omega), Fin.val_inj, Config.openModeCodes.apply_eq_iff_eq]

/-- An open mode code is one of 0..6, never the code of `powerOff`. -/
theorem openModeCode_ne_seven (i : Fin 7) : BitVec.ofNat 3 (Config.openModeCodes i).val ≠ 7#3 := by
  rw [Ne, ofNat_inj_of_lt (by omega) (by decide)]
  omega

theorem openSpecialCode_inj (i j : Fin 256) :
    BitVec.ofNat 8 (Config.openSpecialCodes i).val = BitVec.ofNat 8 (Config.openSpecialCodes j).val ↔ i = j := by
  rw [ofNat_inj_of_lt (by omega) (by omega), Fin.val_inj, Config.openSpecialCodes.apply_eq_iff_eq]

theorem mode_selector_injective : Function.Injective AcMode.selector := fun m m' h => by
  simpa using congrArg AcMode.ofSelector h

/-- The place of a mode in the order in which its open code is drawn, which is the order of R46. -/
def modeIndex (m : AcMode) : Fin 7 := ⟨m.selector.toNat, by cases m <;> decide⟩

theorem modeIndex_injective : Function.Injective modeIndex := fun _ _ h =>
  mode_selector_injective (BitVec.eq_of_toNat_eq (Fin.mk.inj h))

theorem modeCode_of_ne_powerOff {m : AcMode} (hm : m ≠ .powerOff) :
    modeCode m = BitVec.ofNat 3 (Config.openModeCodes (modeIndex m)).val := by
  cases m with
  | powerOff => exact absurd rfl hm
  | auto | cooling | drying | heating => rfl

theorem modeCode_eq_seven_iff (m : AcMode) : modeCode m = 7#3 ↔ m = .powerOff := by
  refine ⟨fun h => ?_, fun h => h ▸ rfl⟩
  by_contra hm
  exact openModeCode_ne_seven _ ((modeCode_of_ne_powerOff hm).symm.trans h)

theorem modeCode_injective : Function.Injective modeCode := by
  intro m m' h
  by_cases hm : m = .powerOff
  · have h7 : modeCode m' = 7#3 := h.symm.trans ((modeCode_eq_seven_iff m).2 hm)
    exact hm.trans ((modeCode_eq_seven_iff m').1 h7).symm
  · have hm' : m' ≠ .powerOff := fun e => hm ((modeCode_eq_seven_iff m).1 (h.trans ((modeCode_eq_seven_iff m').2 e)))
    rw [modeCode_of_ne_powerOff hm, modeCode_of_ne_powerOff hm', openModeCode_inj] at h
    exact modeIndex_injective h

theorem fanCode_ne_unused (f : FanSpeed) : fanCode f ≠ 1#3 ∧ fanCode f ≠ 7#3 := by
  cases f <;> decide

theorem specialCodes_differ :
    ∃ h e, specialCode .hiPower = some h ∧ specialCode .eco = some e ∧ h ≠ e :=
  ⟨_, _, rfl, rfl, fun h => absurd ((openSpecialCode_inj 0 1).1 h) (by decide)⟩

/-- Settles O6: the fixed codes are the table's own, and the open ones are images under permutations, so they differ. -/
theorem codeTablesAreAsConstrained : Obligations.CodeTablesAreAsConstrained :=
  ⟨rfl, rfl, rfl, modeCode_injective, rfl, rfl, rfl, rfl, rfl, rfl, fanCode_ne_unused, rfl, specialCodes_differ⟩

/-! ### The builds on an idle block (R64 to R67) -/

section Idle

variable {s : State}

theorem exec_fix_idle (u : AcUnit) (hb : s.busy = false) :
    exec (.fix u) s = .next (commit ⟨fixSwingHeaderOf u, stateFix, endSentinel⟩ s) := by
  rw [exec, execFix, whenAccepting_idle hb, buildAndCommit_fixSwing]

theorem exec_swing_idle (u : AcUnit) (hb : s.busy = false) :
    exec (.swing u) s = .next (commit ⟨fixSwingHeaderOf u, stateSwing, endSentinel⟩ s) := by
  rw [exec, execSwing, whenAccepting_idle hb, buildAndCommit_fixSwing]

theorem exec_mft_idle_of_inRange (u : AcUnit) (m : AcMode) (sp : SpecialMode) (f : FanSpeed) {v : Byte}
    (hv : tempOutOfRange v = false) (hb : s.busy = false) :
    exec (.mft u m sp f v) s = .next (commit ⟨mftHeaderOf u, mftState m sp f v, mftEnd sp (mftState m sp f v)⟩ s) := by
  rw [exec, execMft, whenAccepting_idle hb, hv, buildAndCommit_mft]
  rfl

theorem exec_mft_idle_of_outOfRange (u : AcUnit) (m : AcMode) (sp : SpecialMode) (f : FanSpeed) {v : Byte}
    (hv : tempOutOfRange v = true) (hb : s.busy = false) :
    exec (.mft u m sp f v) s = .next (reject .tempRange s) := by
  rw [exec, execMft, whenAccepting_idle hb, if_pos hv]

theorem exec_hdr_idle_of_ok {c : BitVec 16} {w : Word} (hc : buildHeader c = .ok w) (hb : s.busy = false) :
    exec (.hdr c) s = .next (setHeader w s) := by
  rw [exec, execHdr, whenAccepting_idle hb, hc]

theorem exec_hdr_idle_of_error {c : BitVec 16} {e : ErrCode} (hc : buildHeader c = .error e) (hb : s.busy = false) :
    exec (.hdr c) s = .next (reject e s) := by
  rw [exec, execHdr, whenAccepting_idle hb, hc]

end Idle

/-! ### A build has one effect for all idle states (R3, R70 (g)) -/

/-- A build command commits one frame, rejects with one code, or sets one header, the same on every idle state. `exec_cases`
names the effect after the state; here it is named before it. -/
theorem exec_build_uniform {i : Instr} (hi : i ≠ .send) :
    (∃ f, ∀ s : State, s.busy = false → exec i s = .next (commit f s)) ∨
    (∃ c, ∀ s : State, s.busy = false → exec i s = .next (reject c s)) ∨
    (∃ w, ∀ s : State, s.busy = false → exec i s = .next (setHeader w s)) := by
  cases i with
  | mft u m sp f v =>
    cases hv : tempOutOfRange v with
    | false => exact .inl ⟨_, fun _ => exec_mft_idle_of_inRange u m sp f hv⟩
    | true => exact .inr (.inl ⟨_, fun _ => exec_mft_idle_of_outOfRange u m sp f hv⟩)
  | fix u => exact .inl ⟨_, fun _ => exec_fix_idle u⟩
  | swing u => exact .inl ⟨_, fun _ => exec_swing_idle u⟩
  | hdr c =>
    cases hc : buildHeader c with
    | error e => exact .inr (.inl ⟨e, fun _ => exec_hdr_idle_of_error hc⟩)
    | ok w => exact .inr (.inr ⟨w, fun _ => exec_hdr_idle_of_ok hc⟩)
  | send => exact absurd rfl hi

/-- Settles O21: the effect of a build is named before the state, and each of the three effects overwrites the frame
registers, `HV`, `FV` and `ERR`. -/
theorem buildResultIgnoresTheState : Obligations.BuildResultIgnoresTheState := by
  intro i s s' t t' hi hb hb' h h'
  obtain ⟨_, hx⟩ | ⟨_, hx⟩ | ⟨_, hx⟩ := exec_build_uniform hi
  all_goals
    cases (hx s hb).symm.trans h
    cases (hx s' hb').symm.trans h'
    exact ⟨rfl, rfl, rfl, rfl, rfl, rfl⟩

end Sys2Proof.Machine

/-! ## The block's state: STATUS, frames of the operations, and what every step keeps (R10 to R23) -/

namespace Sys2Proof.Machine

open Protocol

/-! ### What reads, serializer steps and accepted words touch -/

/-- A register read, of a value or of NOVALUE, appends one read event and may draw; it touches no other field (R31). -/
theorem readPort_eq (i : BitVec 2) (s : State) :
    ∃ d v, readPort i s = { s with draws := d, history := s.history ++ [.readBack i v] } := by
  obtain ⟨v, -, h⟩ | ⟨-, h⟩ := readPort_cases i s
  · exact ⟨s.draws, v, h⟩
  · exact ⟨_, _, h⟩

theorem exec_busy {i : Instr} {s t : State} (hb : s.busy = true) (h : exec i s = .next t) : t = s := by
  obtain ⟨-, ht⟩ | ⟨hb', -⟩ := exec_cases h
  · exact ht
  · simp [hb] at hb'

theorem exec_send_idle_of_frame {s : State} (hb : s.busy = false) (hf : s.fv = true) :
    exec .send s = .next (startTrain s) := by
  rw [exec, execSend, whenAccepting_idle hb, if_pos hf]

theorem exec_send_idle_of_noFrame {s : State} (hb : s.busy = false) (hf : s.fv = false) :
    exec .send s = .next (reject .noFrame s) := by
  rw [exec, execSend, whenAccepting_idle hb, hf]
  rfl

/-- No operation touches the host, the draws or the record (R10, R62). -/
theorem exec_keeps_host {i : Instr} {s t : State} (h : exec i s = .next t) :
    t.program = s.program ∧ t.pc = s.pc ∧ t.moves = s.moves ∧ t.draws = s.draws ∧ t.history = s.history := by
  obtain ⟨-, rfl⟩ | ⟨-, ⟨f, rfl⟩ | ⟨c, -, rfl⟩ | ⟨c, w, -, -, rfl⟩ | ⟨-, -, rfl⟩⟩ := exec_cases h <;>
    exact ⟨rfl, rfl, rfl, rfl, rfl⟩

/-- Only `SEND` starts the serializer (R81). -/
theorem exec_keeps_serializer {i : Instr} {s t : State} (hi : i ≠ .send) (h : exec i s = .next t) :
    t.busy = s.busy ∧ t.slot = s.slot := by
  obtain ⟨-, rfl⟩ | ⟨-, ⟨f, rfl⟩ | ⟨c, -, rfl⟩ | ⟨c, w, -, -, rfl⟩ | ⟨hs, -, -⟩⟩ := exec_cases h
  case inr.inr.inr.inr => exact absurd hs hi
  all_goals exact ⟨rfl, rfl⟩

theorem exec_send_keeps_frame {s t : State} (hf : s.fv = true) (h : exec .send s = .next t) :
    t.hdr = s.hdr ∧ t.stw = s.stw ∧ t.endb = s.endb ∧ t.hv = s.hv ∧ t.fv = s.fv := by
  cases hb : s.busy with
  | true => simp [exec_busy hb h]
  | false =>
    cases (exec_send_idle_of_frame hb hf).symm.trans h
    exact ⟨rfl, rfl, rfl, rfl, rfl⟩

theorem exec_send_of_noFrame_keeps_serializer {s t : State} (hf : s.fv = false) (h : exec .send s = .next t) :
    t.busy = s.busy ∧ t.slot = s.slot := by
  cases hb : s.busy with
  | true => simp [exec_busy hb h, hb]
  | false =>
    cases (exec_send_idle_of_noFrame hb hf).symm.trans h
    exact ⟨hb, rfl⟩

/-- An accepted word leaves the host's program, index and record alone until it is recorded. -/
theorem acceptWord_records {w : Word} {s t : State} (h : acceptWord w s = .next t) :
    ∃ u, t = recordAccept w u ∧ u.program = s.program ∧ u.pc = s.pc ∧ u.history = s.history := by
  obtain ⟨e, -, rfl⟩ | ⟨i, u, -, hu, rfl⟩ := acceptWord_cases h
  · exact ⟨_, rfl, rfl, rfl, rfl⟩
  · obtain ⟨hprog, hpc, -, -, hhist⟩ := exec_keeps_host hu
    exact ⟨u, rfl, hprog, hpc, hhist⟩

/-- The state in which the block proceeds differs from the one before the step in the host's moves only. -/
theorem Proceeds.eq_with_moves {s s' : State} (h : Proceeds s s') : ∃ ms, s' = { s with moves := ms } := by
  obtain ⟨-, rfl⟩ | ⟨ms, -, rfl⟩ := h
  · exact ⟨s'.moves, rfl⟩
  · exact ⟨ms, rfl⟩

/-! ### The invariant of the block (R14, R17, R21, R85) -/

theorem extractLsb'_eq_zero_of_lt {w start : Nat} (len : Nat) {x : BitVec w} (hx : x.toNat < 2 ^ start) :
    x.extractLsb' start len = 0#len := by
  apply BitVec.eq_of_toNat_eq
  rw [BitVec.extractLsb'_toNat, Nat.shiftRight_eq_div_pow, Nat.div_eq_of_lt hx, Nat.zero_mod, BitVec.toNat_zero]

theorem extractLsb'_of_byte (b : Byte) {start : Nat} (len : Nat) (hs : 8 ≤ start) :
    (b.setWidth 32).extractLsb' start len = 0#len := by
  apply extractLsb'_eq_zero_of_lt
  rw [BitVec.toNat_setWidth_of_le (by decide)]
  exact b.isLt.trans_le (Nat.pow_le_pow_right Nat.two_pos hs)

/-- The fold of the upper three bytes does not see the low byte (R61). -/
theorem xor3hi_or_low (h : Word) (b : Byte) : xor3hi (h ||| b.setWidth 32) = xor3hi h := by
  simp only [xor3hi, byte0, byte1, byte2, BitVec.extractLsb'_or, extractLsb'_of_byte b 8 (show 8 ≤ 8 by decide),
    extractLsb'_of_byte b 8 (show 8 ≤ 16 by decide), extractLsb'_of_byte b 8 (show 8 ≤ 24 by decide), BitVec.or_zero]

/-- A byte packed below a word with an empty low byte is the low byte. -/
theorem byte3_or_low {h : Word} (hlow : byte3 h = 0#8) (b : Byte) : byte3 (h ||| b.setWidth 32) = b := by
  rw [byte3, BitVec.extractLsb'_or, ← byte3, hlow, BitVec.zero_or, BitVec.extractLsb'_setWidth_of_le (by decide),
    BitVec.extractLsb'_eq_self]

/-- A header that `buildHeader` makes is legal: a command value up to 0xFF fits below the prefix, and the checksum below
the command byte (R60, R68 (a)). -/
theorem headerOK_of_buildHeader {c : BitVec 16} {w : Word} (h : buildHeader c = .ok w) : HeaderOK w := by
  unfold buildHeader at h
  split at h
  · cases h
  · next hc =>
    cases h
    have hcmd : (c.setWidth 32 <<< 8).toNat < 2 ^ 16 := by
      simp [cmdMax, BitVec.lt_def] at hc
      simp [Nat.shiftLeft_eq]
      omega
    have hlow : byte3 (hdrPrefix ||| c.setWidth 32 <<< 8) = 0#8 := by
      ext i hi
      rw [byte3, BitVec.extractLsb'_or, show hdrPrefix.extractLsb' 0 8 = 0#8 from rfl]
      simp [hi]
    refine ⟨?_, by rw [byte3_or_low hlow, xor3hi_or_low]⟩
    rw [BitVec.extractLsb'_or, BitVec.extractLsb'_or, extractLsb'_eq_zero_of_lt 16 hcmd,
      extractLsb'_of_byte _ 16 (by decide)]
    rfl

theorem mftHeaderOf_ok (u : AcUnit) : HeaderOK (mftHeaderOf u) := by cases u <;> decide

theorem fixSwingHeaderOf_ok (u : AcUnit) : HeaderOK (fixSwingHeaderOf u) := by cases u <;> decide

/-- The header of a frame the Frame Builder makes is legal (R68 (a)). -/
theorem Built.headerOK {f : Frame} (h : Built f) : HeaderOK f.hdr := by
  cases h with
  | mft u => exact mftHeaderOf_ok u
  | fix u | swing u => exact fixSwingHeaderOf_ok u

theorem tempOutOfRange_eq_false_iff (t : Byte) : tempOutOfRange t = false ↔ 17 ≤ t.toNat ∧ t.toNat ≤ 30 := by
  simp [tempOutOfRange, tempMin, tempMax, BitVec.lt_def]

namespace State.Inv

variable {s : State}

theorem reset_inv : State.reset.Inv where
  hdr_held := rfl
  stw_held := rfl
  endb_held := rfl
  frame_has_header := nofun
  header_ok := nofun
  frame_built := nofun
  busy_frame := nofun
  busy_err := nofun
  idle_slot := fun _ => rfl

/-- Committing a built frame to an idle block. -/
theorem commit (hi : s.Inv) (hb : s.busy = false) {f : Frame} (hf : Built f) : (commit f s).Inv where
  hdr_held := rfl
  stw_held := rfl
  endb_held := rfl
  frame_has_header := fun _ => rfl
  header_ok := fun _ hh => Option.some.inj hh ▸ hf.headerOK
  frame_built := by
    rintro _ _ _ ⟨⟩ ⟨⟩ ⟨⟩
    exact hf
  busy_frame := fun _ => rfl
  busy_err := fun _ => rfl
  idle_slot := fun _ => hi.idle_slot hb

theorem reject (hi : s.Inv) (hb : s.busy = false) (c : ErrCode) : (reject c s).Inv where
  hdr_held := rfl
  stw_held := rfl
  endb_held := rfl
  frame_has_header := nofun
  header_ok := nofun
  frame_built := nofun
  busy_frame := fun h => by simp [hb] at h
  busy_err := fun h => by simp [hb] at h
  idle_slot := fun _ => hi.idle_slot hb

theorem setHeader (hi : s.Inv) (hb : s.busy = false) {w : Word} (hw : HeaderOK w) : (setHeader w s).Inv where
  hdr_held := rfl
  stw_held := rfl
  endb_held := rfl
  frame_has_header := nofun
  header_ok := fun _ hh => Option.some.inj hh ▸ hw
  frame_built := nofun
  busy_frame := fun h => by simp [hb] at h
  busy_err := fun _ => rfl
  idle_slot := fun _ => hi.idle_slot hb

theorem startTrain (hi : s.Inv) (hf : s.fv = true) : (startTrain s).Inv :=
  { hi with busy_frame := fun _ => hf, busy_err := fun _ => rfl, idle_slot := nofun }

/-- The block's reset values do not depend on the host and the record. -/
theorem resetBlock (s : State) : (resetBlock s).Inv := { reset_inv with }

theorem with_moves (hi : s.Inv) (ms : List HostMove) : { s with moves := ms }.Inv := { hi with }

theorem serializerStep (hi : s.Inv) (hb : s.busy = true) : (serializerStep s).Inv := by
  obtain ⟨-, h⟩ | ⟨-, h⟩ := serializerStep_cases s
  · rw [h]
    exact { hi with busy_frame := nofun, busy_err := nofun, idle_slot := fun _ => rfl }
  · rw [h]
    exact { hi with idle_slot := fun h => by simp [hb] at h }

theorem readPort (hi : s.Inv) (i : BitVec 2) : (readPort i s).Inv := by
  obtain ⟨d, v, h⟩ := readPort_eq i s
  rw [h]
  exact { hi with }

/-- Every operation keeps the invariant: a build commits a built frame, sets a legal header or rejects, and `SEND` starts a
train only on a frame. -/
theorem exec (hi : s.Inv) {i : Instr} {t : State} (h : exec i s = .next t) : t.Inv := by
  cases hb : s.busy with
  | true => exact exec_busy hb h ▸ hi
  | false =>
    cases i with
    | mft u m sp f v =>
      cases hv : tempOutOfRange v with
      | false =>
        cases (exec_mft_idle_of_inRange u m sp f hv hb).symm.trans h
        obtain ⟨low, high⟩ := (tempOutOfRange_eq_false_iff v).1 hv
        exact hi.commit hb (.mft u m sp f v low high)
      | true =>
        cases (exec_mft_idle_of_outOfRange u m sp f hv hb).symm.trans h
        exact hi.reject hb _
    | fix u =>
      cases (exec_fix_idle u hb).symm.trans h
      exact hi.commit hb (.fix u)
    | swing u =>
      cases (exec_swing_idle u hb).symm.trans h
      exact hi.commit hb (.swing u)
    | hdr c =>
      cases hc : buildHeader c with
      | error e =>
        cases (exec_hdr_idle_of_error hc hb).symm.trans h
        exact hi.reject hb _
      | ok w =>
        cases (exec_hdr_idle_of_ok hc hb).symm.trans h
        exact hi.setHeader hb (headerOK_of_buildHeader hc)
    | send =>
      cases hf : s.fv with
      | true =>
        cases (exec_send_idle_of_frame hb hf).symm.trans h
        exact hi.startTrain hf
      | false =>
        cases (exec_send_idle_of_noFrame hb hf).symm.trans h
        exact hi.reject hb _

theorem acceptWord (hi : s.Inv) (hb : s.busy = false) {w : Word} {t : State} (h : acceptWord w s = .next t) : t.Inv := by
  obtain ⟨_, -, rfl⟩ | ⟨_, u, -, hu, rfl⟩ := acceptWord_cases h
  · exact { hi.reject hb .illegalWord with }
  · exact { hi.exec hu with }

theorem proceed (hi : s.Inv) {t : State} (h : proceed s = .next t) : t.Inv := by
  obtain ⟨hb, rfl⟩ | ⟨hb, w, -, hw⟩ | ⟨-, -, rfl⟩ := proceed_cases h
  · exact hi.serializerStep hb
  · exact hi.acceptWord hb hw
  · exact hi

end State.Inv

/-- Settles O37: a read, a reset and each of the block's own moves keep the invariant. -/
theorem everyStepKeepsTheInvariant : Obligations.EveryStepKeepsTheInvariant := by
  intro s t hi h
  obtain ⟨i, ms, -, rfl⟩ | ⟨ms, -, rfl⟩ | ⟨s', hs', hp⟩ := step_cases h
  · exact (hi.with_moves ms).readPort i
  · exact .resetBlock _
  · obtain ⟨ms, rfl⟩ := hs'.eq_with_moves
    exact (hi.with_moves ms).proceed hp

/-- Settles O36. -/
theorem invariantHoldsAtReset : Obligations.InvariantHoldsAtReset := State.Inv.reset_inv

/-! ### Frames of the operations and of a busy block -/

/-- Settles O23: the host's fields for all five operations, then the block's by what `SEND` finds. -/
theorem operationsLeaveTheRestUnchanged : Obligations.OperationsLeaveTheRestUnchanged := by
  intro i s t h
  obtain ⟨hprog, hpc, hmoves, hdraws, hhist⟩ := exec_keeps_host h
  refine ⟨hprog, hpc, hmoves, hdraws, hhist, fun hi => exec_keeps_serializer hi h, ?_, ?_⟩
  · rintro rfl hf
    exact exec_send_keeps_frame hf h
  · rintro rfl hf
    exact exec_send_of_noFrame_keeps_serializer hf h

/-- Settles O32: a step of a busy block that is no reset is a register read or the serializer's, and neither writes a frame
register, `HV`, `FV` or `ERR`. -/
theorem frameIsStableWhileBusy : Obligations.FrameIsStableWhileBusy := by
  intro s t hb h hreset
  obtain ⟨i, ms, -, rfl⟩ | ⟨ms, hm, -⟩ | ⟨s', hs', hp⟩ := step_cases h
  · obtain ⟨d, v, hread⟩ := readPort_eq i { s with moves := ms }
    rw [hread]
    exact ⟨rfl, rfl, rfl, rfl, rfl, rfl⟩
  · exact absurd hm (hreset ms)
  · obtain ⟨ms, rfl⟩ := hs'.eq_with_moves
    obtain ⟨-, rfl⟩ | ⟨hidle, -⟩ | ⟨hidle, -⟩ := proceed_cases hp
    · obtain ⟨-, hser⟩ | ⟨-, hser⟩ := serializerStep_cases { s with moves := ms } <;> rw [hser] <;>
        exact ⟨rfl, rfl, rfl, rfl, rfl, rfl⟩
    all_goals exact absurd (hb.symm.trans hidle) (by decide)

/-! ### The record of accepted words (R18, R35 (a)) -/

/-- What accepts no word and moves no index keeps the order of acceptance. -/
theorem AcceptedInOrder.of_same {s t : State} (ha : AcceptedInOrder s) (hprog : t.program = s.program) (hpc : t.pc = s.pc)
    (hacc : acceptedWords t.history = acceptedWords s.history) : AcceptedInOrder t := by
  rwa [AcceptedInOrder, hprog, hpc, hacc]

/-- Accepting the presented word extends the accepted prefix of the list by that word. -/
theorem AcceptedInOrder.recordAccept {s : State} (ha : AcceptedInOrder s) {w : Word} (hw : presentedWord s = some w) :
    AcceptedInOrder (recordAccept w s) := by
  obtain ⟨-, hwords⟩ := ha
  obtain ⟨hlt, -⟩ := List.getElem?_eq_some_iff.1 hw
  refine ⟨hlt, ?_⟩
  have hnext : s.program[s.pc]? = some w := hw
  rw [recordAccept_history, acceptedWords_concat, hwords, recordAccept_program, recordAccept_pc, List.take_add_one, hnext,
    Option.toList_some]

theorem AcceptedInOrder.proceed {s t : State} (ha : AcceptedInOrder s) (h : proceed s = .next t) : AcceptedInOrder t := by
  obtain ⟨-, rfl⟩ | ⟨-, w, hw, hacc⟩ | ⟨-, -, rfl⟩ := proceed_cases h
  · obtain ⟨-, hser⟩ | ⟨-, hser⟩ := serializerStep_cases s <;> rw [hser] <;>
      exact ha.of_same rfl rfl (by rw [acceptedWords_concat, List.append_nil])
  · obtain ⟨u, rfl, hprog, hpc, hhist⟩ := acceptWord_records hacc
    have hu : presentedWord u = some w := by rwa [presentedWord, hprog, hpc]
    exact (ha.of_same hprog hpc (by rw [hhist])).recordAccept hu
  · exact ha

/-- Settles O41: only the acceptance of the presented word moves the index or records a word. -/
theorem wordsAreAcceptedOnceAndInOrder : Obligations.WordsAreAcceptedOnceAndInOrder := by
  intro s t ha h
  obtain ⟨i, ms, -, rfl⟩ | ⟨ms, -, rfl⟩ | ⟨s', hs', hp⟩ := step_cases h
  · obtain ⟨d, v, hread⟩ := readPort_eq i { s with moves := ms }
    rw [hread]
    exact ha.of_same rfl rfl (by rw [acceptedWords_concat, List.append_nil])
  · exact ha.of_same rfl rfl (by rw [resetBlock_history, acceptedWords_concat, List.append_nil])
  · obtain ⟨ms, rfl⟩ := hs'.eq_with_moves
    have ha' : AcceptedInOrder { s with moves := ms } := ha
    exact ha'.proceed hp

/-- Settles O38: the record is empty, the block is idle and the index is 0. -/
theorem recordPropertiesHoldAtReset : Obligations.RecordPropertiesHoldAtReset :=
  ⟨nofun, fun _ => ⟨[], nofun, rfl⟩, Nat.le_refl _, rfl⟩

/-! ### `STATUS` (R15, R16, R22) and reads of NOVALUE (R14) -/

/-- Settles O1. -/
theorem resetLeavesNothingToSend : Obligations.ResetLeavesNothingToSend :=
  ⟨rfl, rfl, rfl, rfl, rfl, rfl, rfl, rfl, rfl⟩

theorem status_extract_err (s : State) : s.status.extractLsb' 4 3 = s.err.code := by
  iterate 4 refine (BitVec.extractLsb'_append_eq_of_le (by decide)).trans ?_
  exact BitVec.extractLsb'_append_eq_right

theorem status_extract_upper (s : State) : s.status.extractLsb' 7 25 = 0#25 := by
  iterate 5 refine (BitVec.extractLsb'_append_eq_of_le (by decide)).trans ?_
  rfl

theorem status_eq_concat (s : State) :
    s.status = ((((0#25 ++ s.err.code).concat false).concat s.busy).concat s.fv).concat s.hv := rfl

/-- Settles O4: the flags are the bits appended last, the code and the zeros the fields above them. -/
theorem statusShowsTheFlags : Obligations.StatusShowsTheFlags := by
  intro s
  refine ⟨?_, ?_, ?_, ?_, status_extract_err s, status_extract_upper s⟩ <;>
    simp only [status_eq_concat, BitVec.getLsbD_concat_zero, BitVec.getLsbD_concat_succ]

theorem ErrCode.code_le_four (c : ErrCode) : c.code.toNat ≤ 4 := by
  cases c <;> decide

/-- Settles O5: bits [6:4] of `STATUS` are the code of the outcome. -/
theorem errShowsOneOfFiveCodes : Obligations.ErrShowsOneOfFiveCodes :=
  ⟨rfl, rfl, rfl, rfl, rfl, fun s => by rw [status_extract_err]; exact s.err.code_le_four⟩

theorem step_of_read {s : State} {i : BitVec 2} {ms : List HostMove} (h : s.moves = .read i :: ms) :
    step s = .next (readPort i { s with moves := ms }) := by
  rw [step, nextStep, h]
  rfl

/-- Settles O35: the step is the read, and a read touches only the draws and the record. -/
theorem readOfNoValueReturnsSomeWord : Obligations.ReadOfNoValueReturnsSomeWord := by
  intro s ms i hm _
  obtain ⟨d, v, hread⟩ := readPort_eq i { s with moves := ms }
  exact ⟨_, v, (step_of_read hm).trans (congrArg _ hread), rfl, rfl⟩

end Sys2Proof.Machine

/-! ## Reads of the register port that return a held value (R31) -/

namespace Sys2Proof.Machine

@[simp] theorem regValue_hdr (s : State) : regValue 0#2 s = s.hdr := rfl

@[simp] theorem regValue_stw (s : State) : regValue 1#2 s = s.stw := rfl

@[simp] theorem regValue_endb (s : State) : regValue 2#2 s = s.endb.map (0#24 ++ ·) :=
  congrArg (s.endb.map ·) (funext fun _ => BitVec.setWidth_eq_append (by decide))

@[simp] theorem regValue_status (s : State) : regValue 3#2 s = some s.status := rfl

/-- A read of a register that holds a value records that value and draws nothing. -/
theorem readPort_of_regValue {i : BitVec 2} {s : State} {v : Word} (h : regValue i s = some v) :
    readPort i s = { s with history := s.history ++ [.readBack i v] } := by
  rw [readPort, h]

/-- The host's choices are no part of what a register holds. -/
@[simp] theorem regValue_with_moves (i : BitVec 2) (s : State) (ms : List HostMove) :
    regValue i { s with moves := ms } = regValue i s := rfl

/-- Settles O34: in each of the four cases `v` is what the register holds, and the read records it. -/
theorem readReturnsTheRegister : Obligations.ReadReturnsTheRegister := by
  intro s ms v i hm hv
  have hreg : regValue i s = some v := by
    obtain ⟨rfl, h⟩ | ⟨rfl, h⟩ | ⟨rfl, e, he, rfl⟩ | ⟨rfl, rfl⟩ := hv
    · exact (regValue_hdr s).trans h
    · exact (regValue_stw s).trans h
    · rw [regValue_endb, he, Option.map_some]
    · exact regValue_status s
  exact (step_of_read hm).trans (congrArg _ (readPort_of_regValue ((regValue_with_moves i s ms).trans hreg)))

end Sys2Proof.Machine

/-! ## The encoding: decoder and encoder are inverse, and the legal words (R40 to R49) -/

namespace Sys2Proof

open Laws

/-! ### What a matching row says of a word (R45) -/

/-- If a row of the map matches a word, it is the only one that does. -/
theorem matches_eq_decide {w : Word} {r r' : OpcodeRow} (hr : r ∈ opcodeRows) (hw : r.matches w = true)
    (hr' : r' ∈ opcodeRows) : r'.matches w = decide (r' = r) := by
  have hmem : r' ∈ opcodeRows.filter (·.matches w) ↔ r' = r := by rw [EncodedRow.only_row hr hw, List.mem_singleton]
  rw [List.mem_filter, and_iff_right hr'] at hmem
  rwa [Bool.eq_iff_iff, decide_eq_true_iff]

/-- Settles O10: of the rows, `r'` alone matches a word which it matches. -/
theorem atMostOneRowMatches : Obligations.AtMostOneRowMatches := by
  intro w r r' hr hr' hw hw'
  rw [matches_eq_decide hr' hw' hr] at hw
  exact of_decide_eq_true hw

/-- A field that the mask tests in full is the row's own. -/
theorem field_of_matches {r : OpcodeRow} {w : Word} (hw : r.matches w = true) {lo len : Nat}
    (hm : r.mask.extractLsb' lo len = BitVec.allOnes len) :
    w.extractLsb' lo len = r.matchBits.extractLsb' lo len := by
  rw [OpcodeRow.matches, beq_iff_eq] at hw
  rw [← hw, BitVec.extractLsb'_and, hm, BitVec.and_allOnes]

/-! ### The format of a word (R41 to R44), as `reservedBitsZero` reads it -/

theorem wordField_eq_iff {lo len n : Nat} (hn : n < 2 ^ len) (w : Word) :
    wordField lo len w = n ↔ w.extractLsb' lo len = BitVec.ofNat len n := by
  rw [wordField, ← BitVec.toNat_inj, BitVec.toNat_ofNat, Nat.mod_eq_of_lt hn]

theorem wordField_eq_zero_iff (lo len : Nat) (w : Word) : wordField lo len w = 0 ↔ w.extractLsb' lo len = 0#len :=
  wordField_eq_iff (Nat.two_pow_pos len) w

section Format

variable {w : Word}

theorem reservedBitsZero_mft (hop : wordField 28 4 w = 1) : reservedBitsZero w = true ↔
    w.extractLsb' 25 3 = 0#3 ∧ w.extractLsb' 23 1 = 0#1 ∧ w.extractLsb' 19 1 = 0#1 ∧ w.extractLsb' 10 6 = 0#6 := by
  simp [reservedBitsZero, hop, wordField_eq_zero_iff, and_assoc]

theorem reservedBitsZero_fixSwing (hop : wordField 28 4 w = 2 ∨ wordField 28 4 w = 3) :
    reservedBitsZero w = true ↔ w.extractLsb' 25 3 = 0#3 ∧ w.extractLsb' 0 24 = 0#24 := by
  obtain hop | hop := hop <;> simp [reservedBitsZero, hop, wordField_eq_zero_iff]

theorem reservedBitsZero_hdr (hop : wordField 28 4 w = 4) :
    reservedBitsZero w = true ↔ w.extractLsb' 16 12 = 0#12 := by
  simp [reservedBitsZero, hop, wordField_eq_zero_iff]

theorem reservedBitsZero_send (hop : wordField 28 4 w = 5) :
    reservedBitsZero w = true ↔ w.extractLsb' 0 28 = 0#28 := by
  simp [reservedBitsZero, hop, wordField_eq_zero_iff]

theorem opcode_of_matches {r : OpcodeRow} (hr : r ∈ opcodeRows) (hw : r.matches w = true) :
    wordField 28 4 w = wordField 28 4 r.matchBits :=
  congrArg BitVec.toNat (field_of_matches hw (rows_test_opcode r hr))

/-- A row's mask covers the must-be-zero bits of its format. -/
theorem reservedBitsZero_of_matches {r : OpcodeRow} (hr : r ∈ opcodeRows) (hw : r.matches w = true) :
    reservedBitsZero w = true := by
  have hop := opcode_of_matches hr hw
  simp only [opcodeRows, List.mem_cons, List.not_mem_nil, or_false] at hr
  obtain rfl | rfl | rfl | rfl | rfl := hr
  · exact (reservedBitsZero_mft hop).2
      ⟨field_of_matches hw rfl, field_of_matches hw rfl, field_of_matches hw rfl, field_of_matches hw rfl⟩
  · exact (reservedBitsZero_fixSwing (.inl hop)).2 ⟨field_of_matches hw rfl, field_of_matches hw rfl⟩
  · exact (reservedBitsZero_fixSwing (.inr hop)).2 ⟨field_of_matches hw rfl, field_of_matches hw rfl⟩
  · exact (reservedBitsZero_hdr hop).2 (field_of_matches hw rfl)
  · exact (reservedBitsZero_send hop).2 (field_of_matches hw rfl)

/-! ### A word is the concatenation of the fields of its format -/

theorem mft_fields_append (w : Word) :
    w.extractLsb' 28 4 ++ w.extractLsb' 25 3 ++ w.extractLsb' 24 1 ++ w.extractLsb' 23 1 ++ w.extractLsb' 20 3
      ++ w.extractLsb' 19 1 ++ w.extractLsb' 16 3 ++ w.extractLsb' 10 6 ++ w.extractLsb' 8 2 ++ w.extractLsb' 0 8 = w := by
  simp only [BitVec.extractLsb'_append_extractLsb'_eq_extractLsb']
  exact BitVec.extractLsb'_eq_self

theorem fixSwing_fields_append (w : Word) :
    w.extractLsb' 28 4 ++ w.extractLsb' 25 3 ++ w.extractLsb' 24 1 ++ w.extractLsb' 0 24 = w := by
  simp only [BitVec.extractLsb'_append_extractLsb'_eq_extractLsb']
  exact BitVec.extractLsb'_eq_self

theorem hdr_fields_append (w : Word) : w.extractLsb' 28 4 ++ w.extractLsb' 16 12 ++ w.extractLsb' 0 16 = w := by
  simp only [BitVec.extractLsb'_append_extractLsb'_eq_extractLsb']
  exact BitVec.extractLsb'_eq_self

theorem send_fields_append (w : Word) : w.extractLsb' 28 4 ++ w.extractLsb' 0 28 = w :=
  BitVec.extractLsb'_append_extractLsb'

/-! ### The encoder gives back a word of the format from its operand fields -/

theorem encode_mft_of_format (hop : wordField 28 4 w = 1) (hz : reservedBitsZero w = true) {u : AcUnit} {m : AcMode}
    {sp : SpecialMode} {f : FanSpeed} (hu : u.selector = w.extractLsb' 24 1) (hm : m.selector = w.extractLsb' 20 3)
    (hsp : sp.selector = w.extractLsb' 8 2) (hf : f.selector = w.extractLsb' 16 3) :
    encode (.mft u m sp f (w.extractLsb' 0 8)) = w := by
  obtain ⟨h25, h23, h19, h10⟩ := (reservedBitsZero_mft hop).1 hz
  have h := mft_fields_append w
  rwa [(wordField_eq_iff (by decide) w).1 hop, h25, h23, h19, h10, ← hu, ← hm, ← hsp, ← hf] at h

theorem encode_fix_of_format (hop : wordField 28 4 w = 2) (hz : reservedBitsZero w = true) {u : AcUnit}
    (hu : u.selector = w.extractLsb' 24 1) : encode (.fix u) = w := by
  obtain ⟨h25, h0⟩ := (reservedBitsZero_fixSwing (.inl hop)).1 hz
  have h := fixSwing_fields_append w
  rwa [(wordField_eq_iff (by decide) w).1 hop, h25, h0, ← hu] at h

theorem encode_swing_of_format (hop : wordField 28 4 w = 3) (hz : reservedBitsZero w = true) {u : AcUnit}
    (hu : u.selector = w.extractLsb' 24 1) : encode (.swing u) = w := by
  obtain ⟨h25, h0⟩ := (reservedBitsZero_fixSwing (.inr hop)).1 hz
  have h := fixSwing_fields_append w
  rwa [(wordField_eq_iff (by decide) w).1 hop, h25, h0, ← hu] at h

theorem encode_hdr_of_format (hop : wordField 28 4 w = 4) (hz : reservedBitsZero w = true) :
    encode (.hdr (w.extractLsb' 0 16)) = w := by
  have h := hdr_fields_append w
  rwa [(wordField_eq_iff (by decide) w).1 hop, (reservedBitsZero_hdr hop).1 hz] at h

theorem encode_send_of_format (hop : wordField 28 4 w = 5) (hz : reservedBitsZero w = true) : encode .send = w := by
  have h := send_fields_append w
  rwa [(wordField_eq_iff (by decide) w).1 hop, (reservedBitsZero_send hop).1 hz] at h

end Format

/-! ### Selectors (R46) -/

@[simp] theorem AcUnit.selector_ofSelector (b : BitVec 1) : (AcUnit.ofSelector b).selector = b := by
  revert b
  decide

theorem AcMode.ofSelector_eq_some_iff (b : BitVec 3) (m : AcMode) : AcMode.ofSelector b = some m ↔ m.selector = b := by
  refine ⟨?_, fun h => by rw [← h, ofSelector_selector]⟩
  revert b
  cases m <;> decide

theorem FanSpeed.ofSelector_eq_some_iff (b : BitVec 3) (f : FanSpeed) :
    FanSpeed.ofSelector b = some f ↔ f.selector = b := by
  refine ⟨?_, fun h => by rw [← h, ofSelector_selector]⟩
  revert b
  cases f <;> decide

theorem SpecialMode.ofSelector_eq_some_iff (b : BitVec 2) (sp : SpecialMode) :
    SpecialMode.ofSelector b = some sp ↔ sp.selector = b := by
  refine ⟨?_, fun h => by rw [← h, ofSelector_selector]⟩
  revert b
  cases sp <;> decide

theorem AcMode.exists_selector_eq_iff (b : BitVec 3) : (∃ m : AcMode, m.selector = b) ↔ b.toNat ≤ 4 := by
  simp only [← ofSelector_eq_some_iff, ← Option.isSome_iff_exists]
  revert b
  decide

theorem FanSpeed.exists_selector_eq_iff (b : BitVec 3) : (∃ f : FanSpeed, f.selector = b) ↔ b.toNat ≤ 5 := by
  simp only [← ofSelector_eq_some_iff, ← Option.isSome_iff_exists]
  revert b
  decide

theorem SpecialMode.exists_selector_eq_iff (b : BitVec 2) : (∃ sp : SpecialMode, sp.selector = b) ↔ b.toNat ≤ 2 := by
  simp only [← ofSelector_eq_some_iff, ← Option.isSome_iff_exists]
  revert b
  decide

/-- R49 (c): the three selectors of an `MFT` word name enum values. -/
theorem selectorsNamed_mft {w : Word} (hop : wordField 28 4 w = 1) : selectorsNamed w = true ↔
    (∃ m : AcMode, m.selector = w.extractLsb' 20 3) ∧ (∃ f : FanSpeed, f.selector = w.extractLsb' 16 3) ∧
      ∃ sp : SpecialMode, sp.selector = w.extractLsb' 8 2 := by
  rw [AcMode.exists_selector_eq_iff, FanSpeed.exists_selector_eq_iff, SpecialMode.exists_selector_eq_iff]
  change _ ↔ wordField 20 3 w ≤ 4 ∧ wordField 16 3 w ≤ 5 ∧ wordField 8 2 w ≤ 2
  simp [selectorsNamed, hop, and_assoc]

theorem selectorsNamed_of_ne_mft {w : Word} (hop : wordField 28 4 w ≠ 1) : selectorsNamed w = true := by
  unfold selectorsNamed
  split
  · next h => exact absurd h hop
  · rfl

/-! ### The decoder, row by row -/

theorem decodeMft_eq_ok_iff (w : Word) (i : Instr) : decodeMft w = .ok i ↔
    ∃ m sp f, m.selector = w.extractLsb' 20 3 ∧ sp.selector = w.extractLsb' 8 2 ∧ f.selector = w.extractLsb' 16 3 ∧
      i = .mft (AcUnit.ofSelector (w.extractLsb' 24 1)) m sp f (w.extractLsb' 0 8) := by
  simp only [← AcMode.ofSelector_eq_some_iff, ← SpecialMode.ofSelector_eq_some_iff, ← FanSpeed.ofSelector_eq_some_iff]
  unfold decodeMft
  split
  · next m sp f hm hsp hf => simp [hm, hsp, hf, eq_comm]
  · next hnone =>
    refine ⟨nofun, ?_⟩
    rintro ⟨m, sp, f, hm, hsp, hf, -⟩
    exact absurd hf (hnone m sp f hm hsp)

/-- The decoder answers the operation of the row that matches: at most one does, so the order of its tests is no matter. -/
theorem decode_eq_ok_iff (w : Word) (i : Instr) : decode w = .ok i ↔
    (mftRow.matches w = true ∧ decodeMft w = .ok i) ∨
    (fixRow.matches w = true ∧ i = .fix (AcUnit.ofSelector (w.extractLsb' 24 1))) ∨
    (swingRow.matches w = true ∧ i = .swing (AcUnit.ofSelector (w.extractLsb' 24 1))) ∨
    (hdrRow.matches w = true ∧ i = .hdr (w.extractLsb' 0 16)) ∨
    (sendRow.matches w = true ∧ i = .send) := by
  constructor
  · intro h
    unfold decode at h
    split_ifs at h with hm hf hs hh hd ho
    · exact .inl ⟨hm, h⟩
    · exact .inr (.inl ⟨hf, (Except.ok.inj h).symm⟩)
    · exact .inr (.inr (.inl ⟨hs, (Except.ok.inj h).symm⟩))
    · exact .inr (.inr (.inr (.inl ⟨hh, (Except.ok.inj h).symm⟩)))
    · exact .inr (.inr (.inr (.inr ⟨hd, (Except.ok.inj h).symm⟩)))
  · rintro (⟨hw, h⟩ | ⟨hw, rfl⟩ | ⟨hw, rfl⟩ | ⟨hw, rfl⟩ | ⟨hw, rfl⟩)
    · rwa [decode, if_pos hw]
    all_goals
      have rows (r' : OpcodeRow) := matches_eq_decide (r' := r') (by decide) hw
      rw [decode, rows mftRow (by decide), rows fixRow (by decide), rows swingRow (by decide), rows hdrRow (by decide),
        rows sendRow (by decide)]
      rfl

/-- Settles O7: the word matches the row of its operation, and each operand stands in its field. -/
theorem decodeOfEncodeIsTheInstruction : Obligations.DecodeOfEncodeIsTheInstruction := by
  intro i
  rw [decode_eq_ok_iff]
  cases i with
  | mft u m sp f t =>
    refine .inl ⟨mftRow_matches_encode u m sp f t, (decodeMft_eq_ok_iff _ _).2 ⟨m, sp, f, ?_⟩⟩
    simp only [encode_mft_unit, encode_mft_mode, encode_mft_fan, encode_mft_special, encode_mft_temp,
      AcUnit.ofSelector_selector, and_self]
  | fix u => exact .inr (.inl ⟨by cases u <;> rfl, by rw [encode_fix_unit, AcUnit.ofSelector_selector]⟩)
  | swing u => exact .inr (.inr (.inl ⟨by cases u <;> rfl, by rw [encode_swing_unit, AcUnit.ofSelector_selector]⟩))
  | hdr c => exact .inr (.inr (.inr (.inl ⟨hdrRow_matches_encode c, by rw [encode_hdr_cmd]⟩)))
  | send => exact .inr (.inr (.inr (.inr ⟨rfl, rfl⟩)))

/-- Settles O8: the matching row fixes opcode and must-be-zero bits, and the operands come from the remaining fields. -/
theorem encodeOfDecodeIsTheWord : Obligations.EncodeOfDecodeIsTheWord := by
  intro w i h
  obtain ⟨hw, h⟩ | ⟨hw, rfl⟩ | ⟨hw, rfl⟩ | ⟨hw, rfl⟩ | ⟨hw, rfl⟩ := (decode_eq_ok_iff w i).1 h
  all_goals
    have hop := opcode_of_matches (by decide) hw
    have hz := reservedBitsZero_of_matches (by decide) hw
  · obtain ⟨m, sp, f, hm, hsp, hf, rfl⟩ := (decodeMft_eq_ok_iff w i).1 h
    exact encode_mft_of_format hop hz (AcUnit.selector_ofSelector _) hm hsp hf
  · exact encode_fix_of_format hop hz (AcUnit.selector_ofSelector _)
  · exact encode_swing_of_format hop hz (AcUnit.selector_ofSelector _)
  · exact encode_hdr_of_format hop hz
  · exact encode_send_of_format hop hz

/-- Decoding and encoding are inverse on the legal words. -/
theorem decode_eq_ok_iff_encode_eq (w : Word) (i : Instr) : decode w = .ok i ↔ encode i = w :=
  ⟨encodeOfDecodeIsTheWord w i, fun h => h ▸ decodeOfEncodeIsTheInstruction i⟩

/-! ### The legal words (R49) -/

theorem wordLegal_iff (w : Word) : wordLegal w = true ↔
    (1 ≤ wordField 28 4 w ∧ wordField 28 4 w ≤ 5) ∧ reservedBitsZero w = true ∧ selectorsNamed w = true := by
  simp [wordLegal, opcodeAssigned, and_assoc]

theorem row_opcode_assigned : ∀ r ∈ opcodeRows, 1 ≤ wordField 28 4 r.matchBits ∧ wordField 28 4 r.matchBits ≤ 5 := by
  decide

theorem wordLegal_of_matches {w : Word} {r : OpcodeRow} (hr : r ∈ opcodeRows) (hw : r.matches w = true)
    (hsel : selectorsNamed w = true) : wordLegal w = true :=
  (wordLegal_iff w).2 ⟨opcode_of_matches hr hw ▸ row_opcode_assigned r hr, reservedBitsZero_of_matches hr hw, hsel⟩

theorem wordLegal_of_decode {w : Word} {i : Instr} (h : decode w = .ok i) : wordLegal w = true := by
  obtain ⟨hw, h⟩ | ⟨hw, -⟩ | ⟨hw, -⟩ | ⟨hw, -⟩ | ⟨hw, -⟩ := (decode_eq_ok_iff w i).1 h
  all_goals
    have hop := opcode_of_matches (by decide) hw
    refine wordLegal_of_matches (by decide) hw ?_
  · obtain ⟨m, sp, f, hm, hsp, hf, -⟩ := (decodeMft_eq_ok_iff w i).1 h
    exact (selectorsNamed_mft hop).2 ⟨⟨m, hm⟩, ⟨f, hf⟩, ⟨sp, hsp⟩⟩
  all_goals exact selectorsNamed_of_ne_mft (hop.trans_ne (by decide))

theorem exists_encode_of_wordLegal {w : Word} (h : wordLegal w = true) : ∃ i, encode i = w := by
  obtain ⟨⟨hlow, hhigh⟩, hz, hsel⟩ := (wordLegal_iff w).1 h
  have hunit := AcUnit.selector_ofSelector (w.extractLsb' 24 1)
  obtain hop | hop | hop | hop | hop : wordField 28 4 w = 1 ∨ wordField 28 4 w = 2 ∨ wordField 28 4 w = 3 ∨
      wordField 28 4 w = 4 ∨ wordField 28 4 w = 5 := by omega
  · obtain ⟨⟨m, hm⟩, ⟨f, hf⟩, ⟨sp, hsp⟩⟩ := (selectorsNamed_mft hop).1 hsel
    exact ⟨_, encode_mft_of_format hop hz hunit hm hsp hf⟩
  · exact ⟨_, encode_fix_of_format hop hz hunit⟩
  · exact ⟨_, encode_swing_of_format hop hz hunit⟩
  · exact ⟨_, encode_hdr_of_format hop hz⟩
  · exact ⟨_, encode_send_of_format hop hz⟩

/-- Settles O9: a matching row makes a word legal, and a legal word is the word of an operation, which decodes. -/
theorem decoderAcceptsExactlyLegalWords : Obligations.DecoderAcceptsExactlyLegalWords := by
  intro w
  constructor
  · rintro ⟨i, hi⟩
    exact wordLegal_of_decode hi
  · intro h
    obtain ⟨i, hi⟩ := exists_encode_of_wordLegal h
    exact ⟨i, (decode_eq_ok_iff_encode_eq w i).2 hi⟩

/-- Settles O11. -/
theorem specWordsDecode : Obligations.SpecWordsDecode :=
  ⟨rfl, rfl, rfl, rfl, rfl, rfl, rfl, rfl, rfl⟩

end Sys2Proof

/-! ## The fields of the state word (R52) -/

namespace Sys2Proof.Machine

open Protocol

/-- The source's five-bit mask keeps every three-bit code (C10). -/
theorem code_and_mask (c : BitVec 3) : c.setWidth 32 &&& 0x1F#32 = c.setWidth 32 := by
  revert c
  decide

theorem setWidth_and_low_nibble (b : Byte) : (b &&& 0xF#8).setWidth 32 = (b.setWidth 4).setWidth 32 := by
  apply BitVec.eq_of_toNat_eq
  simp only [BitVec.toNat_setWidth, BitVec.toNat_and, BitVec.toNat_ofNat]
  exact congrArg (· % 2 ^ 32) (Nat.and_two_pow_sub_one_eq_mod b.toNat 4)

/-- The packed fields do not overlap: the state word is their concatenation. -/
theorem packState_eq_append (flag : BitVec 4) (t : Byte) (fan mode : BitVec 3) :
    packState flag t fan mode =
      0#4 ++ flag ++ (t - tempMin).setWidth 4 ++ 0#2 ++ 0#2 ++ fan ++ 0#2 ++ mode ++ 0#8 := by
  rw [packState, setWidth_and_low_nibble, code_and_mask, code_and_mask]
  refine Eq.trans ?_ (BitVec.setWidth_eq _)
  simp only [BitVec.setWidth_append_eq_shiftLeft_setWidth_or, BitVec.shiftLeft_or_distrib, ← BitVec.shiftLeft_add]
  simp

theorem specialFlag_eq_ite (sp : SpecialMode) : specialFlag sp = if sp = .noSpecial then 1#4 else 9#4 := by
  cases sp <;> rfl

/-- A temperature in range leaves its distance from 17 in four bits (R65). -/
theorem temp_field_toNat {t : Byte} (low : 17 ≤ t.toNat) (high : t.toNat ≤ 30) :
    ((t - tempMin).setWidth 4).toNat = t.toNat - 17 := by
  have hmin : tempMin.toNat = 17 := rfl
  rw [BitVec.toNat_setWidth, BitVec.toNat_sub_of_le (BitVec.le_def.2 (hmin ▸ low)), hmin, Nat.mod_eq_of_lt (by omega)]

/-- Each field of a word with the layout of R52 is read back as it was put there. -/
theorem extract_state_fields (top flag temp : BitVec 4) (gap zero : BitVec 2) (fan : BitVec 3) (zero' : BitVec 2)
    (mode : BitVec 3) (low : Byte) :
    let w := top ++ flag ++ temp ++ gap ++ zero ++ fan ++ zero' ++ mode ++ low
    w.extractLsb' 28 4 = top ∧ w.extractLsb' 24 4 = flag ∧ w.extractLsb' 20 4 = temp ∧ w.extractLsb' 18 2 = gap ∧
    w.extractLsb' 16 2 = zero ∧ w.extractLsb' 13 3 = fan ∧ w.extractLsb' 11 2 = zero' ∧ w.extractLsb' 8 3 = mode ∧
    w.extractLsb' 0 8 = low := by
  refine ⟨?_, ?_, ?_, ?_, ?_, ?_, ?_, ?_, ?_⟩
  all_goals repeat refine (BitVec.extractLsb'_append_eq_of_le (by decide)).trans ?_
  · exact BitVec.extractLsb'_eq_self
  all_goals exact BitVec.extractLsb'_append_eq_right

/-- Settles O15: the state word is the concatenation of its fields, so each is read back as it was packed. -/
theorem stateWordHasTheLayout : Obligations.StateWordHasTheLayout := by
  intro m sp f t low high
  rw [mftState, packState_eq_append, specialFlag_eq_ite]
  obtain ⟨htop, hflag, htemp, hrest⟩ := extract_state_fields 0#4 (if sp = .noSpecial then 1#4 else 9#4)
    ((t - tempMin).setWidth 4) 0#2 0#2 (fanCode f) 0#2 (modeCode m) 0#8
  exact ⟨htop, hflag, (congrArg BitVec.toNat htemp).trans (temp_field_toNat low high), hrest⟩

end Sys2Proof.Machine

/-! ## The train slot by slot (R55, R80) -/

namespace Sys2Proof.Machine

open Protocol

/-! ### Slots of the slot map -/

section SlotAt

variable (f : BitVec 72)

/-- The even slots between the framing pair and the trailing mark are bit marks. -/
theorem slotAt_bitMark {i : Nat} (hi : i < 72) : slotAt f (2 + 2 * i) = ⟨.mark, tBitMark⟩ := by
  rw [slotAt, if_neg (by omega), if_neg (by omega), if_neg (by rw [lastSlot]; omega), if_pos (by omega)]

/-- The odd ones carry the bits, most significant first. -/
theorem slotAt_bitSpace {i : Nat} (hi : i < 72) :
    slotAt f (3 + 2 * i) = ⟨.space, if f.getLsbD (71 - i) then tOneSpace else tZeroSpace⟩ := by
  rw [slotAt, if_neg (by omega), if_neg (by omega), if_neg (by rw [lastSlot]; omega), if_neg (by omega),
    show 71 - (3 + 2 * i - 3) / 2 = 71 - i by omega]

/-- The two slots of a bit are `bitPulses` of it (R54). -/
theorem slotAt_pair {i : Nat} (hi : i < 72) :
    [slotAt f (2 + 2 * i), slotAt f (3 + 2 * i)] = bitPulses (f.getLsbD (71 - i)) := by
  rw [slotAt_bitMark f hi, slotAt_bitSpace f hi, bitPulses]

end SlotAt

/-! ### `serialize` is the slot map -/

/-- The slots of the first `n` bits. -/
theorem flatMap_bitPulses_eq_map_slotAt (f : BitVec 72) {n : Nat} (hn : n ≤ 72) :
    (List.range n).flatMap (fun i => bitPulses (f.getLsbD (71 - i))) =
      (List.range (2 * n)).map fun j => slotAt f (2 + j) := by
  induction n with
  | zero => rfl
  | succ n ih =>
    rw [List.range_succ, List.flatMap_append, ih (by omega), List.flatMap_singleton, ← slotAt_pair f hn,
      show 2 * (n + 1) = 2 * n + 1 + 1 by omega, List.range_succ, List.range_succ, List.map_append, List.map_append,
      List.append_assoc, show 3 + 2 * n = 2 + (2 * n + 1) by omega]
    rfl

/-- The serializer's slot map, slot 0 to slot 146, is the train (R80). -/
theorem serialize_eq_map_slotAt (f : BitVec 72) : serialize f = (List.range 147).map (slotAt f) := by
  have hslots : List.range 147 = [0, 1] ++ (List.range (2 * 72)).map (2 + ·) ++ [146] := rfl
  rw [serialize, frameBits, flatMap_bitPulses_eq_map_slotAt f (Nat.le_refl 72), hslots, List.map_append, List.map_append,
    List.map_map]
  rfl

theorem serialize_length (f : BitVec 72) : (serialize f).length = 147 := by
  rw [serialize_eq_map_slotAt, List.length_map, List.length_range]

theorem serialize_getElem? (f : BitVec 72) {k : Nat} (hk : k < 147) : (serialize f)[k]? = some (slotAt f k) := by
  rw [serialize_eq_map_slotAt, List.getElem?_map, List.getElem?_range hk, Option.map_some]

/-- Settles O45: the train is the slot map, whose slots are the ones named. -/
theorem serializeIsTheSlotMap : Obligations.SerializeIsTheSlotMap := by
  intro f
  refine ⟨serialize_length f, serialize_getElem? f (by decide), serialize_getElem? f (by decide), fun i hi => ⟨?_, ?_⟩,
    serialize_getElem? f (by decide), fun k => serialize_getElem? f⟩
  · rw [serialize_getElem? f (by omega), slotAt_bitMark f hi, tBitMark]
  · rw [serialize_getElem? f (by omega), slotAt_bitSpace f hi, tOneSpace, tZeroSpace]

end Sys2Proof.Machine

/-! ## The assembler: the fused pseudo-instructions and the example line (R57, R58) -/

namespace Sys2Proof.Machine

/-! ### Accepting a legal word on an idle block -/

theorem acceptWord_encode {i : Instr} {s t : State} (h : exec i s = .next t) :
    acceptWord (encode i) s = .next (recordAccept (encode i) t) := by
  rw [acceptWord, decodeOfEncodeIsTheInstruction]
  simp only [h]

/-- An idle block with no move of the host left accepts the word presented. -/
theorem step_of_presented {i : Instr} {s t : State} (hm : s.moves = []) (hb : s.busy = false)
    (hw : presentedWord s = some (encode i)) (h : exec i s = .next t) :
    step s = .next (recordAccept (encode i) t) := by
  rw [step_no_moves hm, proceed, hb, hw]
  exact acceptWord_encode h

theorem emittedSlots_recordAccept (w : Word) (s : State) :
    emittedSlots (recordAccept w s).history = emittedSlots s.history := by
  rw [recordAccept_history, emittedSlots_concat, List.append_nil]

/-- The build of an `X` pseudo-instruction commits a frame or is rejected: none is `HDR`, which leaves a header alone. -/
theorem Pseudo.exec_build_idle {p : Pseudo} {build : Instr} {s : State} (hp : p.expand = [build, .send])
    (hb : s.busy = false) :
    (∃ f, exec build s = .next (commit f s)) ∨ ∃ c, c ≠ .errNone ∧ exec build s = .next (reject c s) := by
  cases p with
  | xmft u m sp f t =>
    obtain ⟨rfl, -⟩ := List.cons.inj hp
    cases ht : tempOutOfRange t with
    | false => exact .inl ⟨_, exec_mft_idle_of_inRange u m sp f ht hb⟩
    | true => exact .inr ⟨_, by decide, exec_mft_idle_of_outOfRange u m sp f ht hb⟩
  | xfix u =>
    obtain ⟨rfl, -⟩ := List.cons.inj hp
    exact .inl ⟨_, exec_fix_idle u hb⟩
  | xswing u =>
    obtain ⟨rfl, -⟩ := List.cons.inj hp
    exact .inl ⟨_, exec_swing_idle u hb⟩

/-- Settles O44: after a committed frame the `SEND` starts the train, after a rejection it finds no frame. -/
theorem fusedBuildAndSend : Obligations.FusedBuildAndSend := by
  refine ⟨fun _ _ _ _ _ => rfl, fun _ => ⟨rfl, rfl⟩, ?_⟩
  intro p build s hm hb hp hbuild hsend
  obtain ⟨f, hx⟩ | ⟨c, hc, hx⟩ := Pseudo.exec_build_idle hp hb
  · have hgo := step_of_presented (s := recordAccept (encode build) (commit f s)) hm hb hsend
      (exec_send_idle_of_frame hb rfl)
    exact ⟨_, _, step_of_presented hm hb hbuild hx, fun _ => ⟨hgo, rfl, rfl⟩, fun herr => absurd rfl herr⟩
  · have hgo := step_of_presented (s := recordAccept (encode build) (reject c s)) hm hb hsend
      (exec_send_idle_of_noFrame hb rfl)
    refine ⟨_, _, step_of_presented hm hb hbuild hx, fun herr => absurd herr hc, fun _ => ⟨hgo, hb, rfl, ?_⟩⟩
    rw [emittedSlots_recordAccept, reject_history, emittedSlots_recordAccept, reject_history]

/-- Settles O53. -/
theorem assemblerExample : Obligations.AssemblerExample := by
  unfold Obligations.AssemblerExample
  decide

end Sys2Proof.Machine

/-! ## The Frame Builder: headers, built frames, and the step that runs an operation (R60 to R70) -/

namespace Sys2Proof.Machine

open Protocol

/-! ### Headers (R60) -/

/-- Concatenation puts the upper part above the lower one and loses nothing. -/
theorem toNat_append_eq_add {v w : Nat} (x : BitVec v) (y : BitVec w) :
    (x ++ y).toNat = x.toNat * 2 ^ w + y.toNat := by
  rw [BitVec.toNat_append, ← Nat.shiftLeft_add_eq_or_of_lt y.isLt, Nat.shiftLeft_eq]

/-- The constant bytes, the command byte and the checksum do not overlap: a header is their concatenation. -/
theorem header_eq_append (b x : Byte) :
    hdrPrefix ||| b.setWidth 32 <<< 8 ||| x.setWidth 32 = 0xF20D#16 ++ b ++ x := by
  refine Eq.trans ?_ (BitVec.setWidth_eq _)
  rw [BitVec.setWidth_append_append_eq_shiftLeft_setWidth_or]
  rfl

/-- The two constant bytes fold to all ones, so the checksum of a header is the complement of its command byte (R60). -/
theorem xor3hi_header (b x : Byte) : xor3hi (0xF20D#16 ++ b ++ x) = ~~~b := by
  have h0 : byte0 (0xF20D#16 ++ b ++ x) = 0xF2#8 :=
    (BitVec.extractLsb'_append_eq_of_le (by decide)).trans (BitVec.extractLsb'_append_eq_of_le (by decide))
  have h1 : byte1 (0xF20D#16 ++ b ++ x) = 0x0D#8 :=
    (BitVec.extractLsb'_append_eq_of_le (by decide)).trans (BitVec.extractLsb'_append_eq_of_le (by decide))
  have h2 : byte2 (0xF20D#16 ++ b ++ x) = b :=
    (BitVec.extractLsb'_append_eq_of_le (by decide)).trans BitVec.extractLsb'_append_eq_right
  rw [xor3hi, h0, h1, h2]
  exact BitVec.allOnes_xor

/-- A command value of one byte passes the check, and its header is packed. -/
theorem buildHeader_byte (b : Byte) : buildHeader (b.setWidth 16) = .ok (0xF20D#16 ++ b ++ ~~~b) := by
  have hle : ¬ cmdMax < b.setWidth 16 := by
    rw [BitVec.lt_def, BitVec.toNat_setWidth_of_le (by decide)]
    exact Nat.not_lt.2 (Nat.le_of_lt_succ b.isLt)
  have hsum : xor3hi (hdrPrefix ||| b.setWidth 32 <<< 8) = ~~~b := by
    rw [← xor3hi_or_low _ 0#8, header_eq_append, xor3hi_header]
  rw [buildHeader, if_neg hle, BitVec.setWidth_setWidth (by decide)]
  simp only [hsum, header_eq_append]

theorem buildHeader_of_gt {c : BitVec 16} (hc : 0xFF < c.toNat) : buildHeader c = .error .invalidCommand :=
  if_pos hc

/-- A command value up to 0xFF is a byte. -/
theorem exists_byte_of_le {c : BitVec 16} (hc : c.toNat ≤ 0xFF) : ∃ b : Byte, c = b.setWidth 16 :=
  ⟨c.setWidth 8, (BitVec.setWidth_setWidth_eq_self (BitVec.lt_def.2 (Nat.lt_succ_of_le hc))).symm⟩

theorem header_toNat (b : Byte) :
    (0xF20D#16 ++ b ++ ~~~b).toNat = 0xF20D * 2 ^ 16 + b.toNat * 2 ^ 8 + (0xFF - b.toNat) := by
  rw [toNat_append_eq_add, toNat_append_eq_add, BitVec.toNat_not, BitVec.toNat_ofNat]
  omega

/-- Settles O12: a value up to 0xFF is a byte, whose header is the concatenation of 0xF20D, the byte and its complement. -/
theorem buildHeaderChecksThenPacks : Obligations.BuildHeaderChecksThenPacks := by
  refine fun c => ⟨fun hc => ?_, buildHeader_of_gt⟩
  obtain ⟨b, rfl⟩ := exists_byte_of_le hc
  have hbuild := buildHeader_byte b
  refine ⟨_, hbuild, ?_, headerOK_of_buildHeader hbuild⟩
  rw [header_toNat, BitVec.toNat_setWidth_of_le (by decide)]

/-- Settles O13: a value that `buildHeader` takes leaves a header without a frame, so that `SEND` has none to send. -/
theorem hdrBuildsAHeaderOrRejects : Obligations.HdrBuildsAHeaderOrRejects := by
  refine fun s c hb => ⟨fun hc => ?_, fun hc => exec_hdr_idle_of_error (buildHeader_of_gt hc) hb⟩
  obtain ⟨h, hbuild, -, -⟩ := (buildHeaderChecksThenPacks c).1 hc
  have hsend : exec .send (setHeader h s) = .next (reject .noFrame (setHeader h s)) :=
    exec_send_idle_of_noFrame hb rfl
  exact ⟨h, _, hbuild, exec_hdr_idle_of_ok hbuild hb, rfl, hsend⟩

/-! ### Frames (R65 to R70) -/

theorem mftHeaderOf_eq_ite (u : AcUnit) : mftHeaderOf u = if u = .a then 0xF20D03FC#32 else 0xF20D13EC#32 := by
  cases u <;> rfl

theorem fixSwingHeaderOf_eq_ite (u : AcUnit) :
    fixSwingHeaderOf u = if u = .a then 0xF20D01FE#32 else 0xF20D11EE#32 := by
  cases u <;> rfl

theorem tempOutOfRange_eq_true_iff (t : Byte) : tempOutOfRange t = true ↔ t.toNat < 17 ∨ 30 < t.toNat := by
  rw [← Bool.not_eq_false, tempOutOfRange_eq_false_iff]
  omega

/-- The state word of R65 as the sum of its fields. -/
theorem mftState_toNat (m : AcMode) (sp : SpecialMode) (f : FanSpeed) {t : Byte} (low : 17 ≤ t.toNat)
    (high : t.toNat ≤ 30) :
    (mftState m sp f t).toNat = (if sp = .noSpecial then 1 else 9) * 2 ^ 24 + (t.toNat - 17) * 2 ^ 20
      + (fanCode f).toNat * 2 ^ 13 + (modeCode m).toNat * 2 ^ 8 := by
  have hflag : (specialFlag sp).toNat = if sp = .noSpecial then 1 else 9 := by cases sp <;> rfl
  simp only [mftState, packState_eq_append, toNat_append_eq_add, hflag, temp_field_toNat low high, BitVec.toNat_ofNat]
  omega

theorem mftEnd_of_special {sp : SpecialMode} (hsp : sp ≠ .noSpecial) (w : Word) :
    some (mftEnd sp w) = specialCode sp := by
  cases sp with
  | noSpecial => exact absurd rfl hsp
  | hiPower | eco => rfl

/-- Settles O14: in range the committed frame is the one of R65, out of range the operation is rejected. -/
theorem mftBuildsItsFrameOrRejects : Obligations.MftBuildsItsFrameOrRejects := by
  refine fun s u m sp f t hb => ⟨fun low high => ?_, fun hout => ?_⟩
  · have hrange := (tempOutOfRange_eq_false_iff t).2 ⟨low, high⟩
    refine ⟨_, _, _, exec_mft_idle_of_inRange u m sp f hrange hb, mftHeaderOf_eq_ite u, mftState_toNat m sp f low high,
      ?_, fun hsp => mftEnd_of_special hsp _⟩
    rintro rfl
    rfl
  · exact exec_mft_idle_of_outOfRange u m sp f ((tempOutOfRange_eq_true_iff t).2 hout) hb

/-- Settles O16: the frame that `FIX` commits to an idle block, with its header written out per unit. -/
theorem fixBuildsItsFrame : Obligations.FixBuildsItsFrame := by
  intro s u hb
  rw [exec_fix_idle u hb, fixSwingHeaderOf_eq_ite]
  rfl

/-- Settles O17: as for `FIX`, with the state word of `SWING`. -/
theorem swingBuildsItsFrame : Obligations.SwingBuildsItsFrame := by
  intro s u hb
  rw [exec_swing_idle u hb, fixSwingHeaderOf_eq_ite]
  exact ⟨rfl, by decide⟩

/-- The frame that an `MFT` without special mode leaves has the checksum of its state word; a rejected one leaves none. -/
theorem stateSumOK_of_mft {s t : State} {m : AcMode} {u : AcUnit} {f : FanSpeed} {v : Byte} {w : Word} {e : Byte}
    (hb : s.busy = false) (h : exec (.mft u m .noSpecial f v) s = .next t) (hw : t.stw = some w)
    (he : t.endb = some e) : StateSumOK w e := by
  cases hv : tempOutOfRange v with
  | false =>
    cases (exec_mft_idle_of_inRange u m .noSpecial f hv hb).symm.trans h
    cases hw
    cases he
    rfl
  | true =>
    cases (exec_mft_idle_of_outOfRange u m .noSpecial f hv hb).symm.trans h
    cases hw

theorem not_stateSumOK_fix_swing : ¬ StateSumOK stateFix endSentinel ∧ ¬ StateSumOK stateSwing endSentinel := by
  decide

/-- Settles O18: the end byte of `FIX` and `SWING` is a literal, and not the checksum of either state word. -/
theorem builtFramesAreLegal : Obligations.BuiltFramesAreLegal := by
  refine ⟨fun _ => Built.headerOK, fun _ _ _ _ _ _ _ _ => stateSumOK_of_mft, ?_⟩
  rintro s t u w e hb (h | h) hw he
  · cases (exec_fix_idle u hb).symm.trans h
    cases hw
    cases he
    exact not_stateSumOK_fix_swing.1
  · cases (exec_swing_idle u hb).symm.trans h
    cases hw
    cases he
    exact not_stateSumOK_fix_swing.2

/-- The unit stands in bit 4 of the command byte and, complemented, of the checksum (R60, C4). -/
theorem fixSwingHeaderOf_units_differ :
    fixSwingHeaderOf .a ^^^ fixSwingHeaderOf .b = (1#32 <<< 12) ||| (1#32 <<< 4) := by decide

theorem mftHeaderOf_units_differ : mftHeaderOf .a ^^^ mftHeaderOf .b = (1#32 <<< 12) ||| (1#32 <<< 4) := by decide

/-- Settles O20: each build commits the same state word and end byte for both units, and a header per unit. -/
theorem unitsDifferInTwoHeaderBits : Obligations.UnitsDifferInTwoHeaderBits := by
  rintro s ta tb m sp f v hidle low high (⟨ha, hb⟩ | ⟨ha, hb⟩ | ⟨ha, hb⟩)
  · cases (exec_fix_idle .a hidle).symm.trans ha
    cases (exec_fix_idle .b hidle).symm.trans hb
    exact ⟨⟨_, _, rfl, rfl, fixSwingHeaderOf_units_differ⟩, rfl, rfl⟩
  · cases (exec_swing_idle .a hidle).symm.trans ha
    cases (exec_swing_idle .b hidle).symm.trans hb
    exact ⟨⟨_, _, rfl, rfl, fixSwingHeaderOf_units_differ⟩, rfl, rfl⟩
  · have hrange := (tempOutOfRange_eq_false_iff v).2 ⟨low, high⟩
    cases (exec_mft_idle_of_inRange .a m sp f hrange hidle).symm.trans ha
    cases (exec_mft_idle_of_inRange .b m sp f hrange hidle).symm.trans hb
    exact ⟨⟨_, _, rfl, rfl, mftHeaderOf_units_differ⟩, rfl, rfl⟩

/-! ### The step that runs an operation (R18, R63) -/

/-- An idle block that proceeds accepts the word presented, which is executed and recorded. -/
theorem proceed_of_decode {i : Instr} {s t : State} {w : Word} (hb : s.busy = false) (hw : presentedWord s = some w)
    (hi : decode w = .ok i) (h : exec i s = .next t) : proceed s = .next (recordAccept w t) := by
  obtain rfl := encodeOfDecodeIsTheWord w i hi
  rw [proceed, hb, hw]
  exact acceptWord_encode h

/-- Settles O26: with no move left or with `proceed` next, the step is the block's own, on the remaining moves. -/
theorem stepRunsTheDecodedInstruction : Obligations.StepRunsTheDecodedInstruction := by
  refine fun s t w i hb hw hi => ⟨fun hm h => ?_, fun ms hm h => ?_⟩
  · exact (step_no_moves hm).trans (proceed_of_decode hb hw hi h)
  · have hstep : step s = proceed { s with moves := ms } := by
      rw [step_of_proceed (.inr ⟨ms, hm⟩), hm, List.tail_cons]
    exact hstep.trans (proceed_of_decode (s := { s with moves := ms }) hb hw hi h)

end Sys2Proof.Machine

/-! ## The Pulse Serializer: `SEND`, the serializer's step, whole trains and their text (R80 to R87) -/

namespace Sys2Proof.Machine

open Protocol

/-! ### `SEND` and the serializer's step (R81, R82) -/

/-- Settles O22. -/
theorem sendStartsTheTrainOrRejects : Obligations.SendStartsTheTrainOrRejects := fun _ hb =>
  ⟨exec_send_idle_of_frame hb, exec_send_idle_of_noFrame hb⟩

theorem proceed_busy {s : State} (hb : s.busy = true) : proceed s = .next (serializerStep s) := by
  rw [proceed, if_pos hb]

/-- With a frame held the serializer draws nothing, and the slot it emits is that frame's. -/
theorem serializerStep_of_held {s : State} {h w : Word} {e : Byte} (hh : s.hdr = some h) (hw : s.stw = some w)
    (he : s.endb = some e) : serializerStep s =
      if s.slot.val = 146 then
        { s with busy := false, slot := 0, history := s.history ++ [.emitted (slotAt (h ++ w ++ e) s.slot.val)] }
      else { s with slot := s.slot + 1, history := s.history ++ [.emitted (slotAt (h ++ w ++ e) s.slot.val)] } := by
  obtain ⟨hread, hdraws⟩ := frameRead_of_held hh hw he
  obtain ⟨hslot, hser⟩ | ⟨hslot, hser⟩ := serializerStep_cases s
  · rw [hser, hread, hdraws, if_pos hslot]
    rfl
  · rw [hser, hread, hdraws, if_neg hslot]
    rfl

/-- Settles O30: the host's move is taken off its list, and the busy block takes the serializer's step. -/
theorem serializerStepEmitsOneSlot : Obligations.SerializerStepEmitsOneSlot := by
  intro s h w e hm hb hh hw he
  rw [step_of_proceed hm]
  exact (proceed_busy (s := { s with moves := s.moves.tail }) hb).trans (congrArg _ (serializerStep_of_held hh hw he))

/-- Before the last slot the counter does not wrap (R17). -/
theorem slot_succ_val {k : Fin 147} (hk : k.val ≠ 146) : (k + 1).val = k.val + 1 :=
  Fin.val_add_one_of_lt (Fin.lt_def.2 (by rw [Fin.val_last]; omega))

/-! ### The train as it grows (R23, R84) -/

theorem take_succ_serialize (f : BitVec 72) {k : Nat} (hk : k < 147) :
    (serialize f).take (k + 1) = (serialize f).take k ++ [slotAt f k] := by
  rw [List.take_add_one, serialize_getElem? f hk, Option.toList_some]

/-- A busy block holds a frame (R14, R81). -/
theorem State.Inv.exists_frame {s : State} (hi : s.Inv) (hb : s.busy = true) :
    ∃ h w e, s.hdr = some h ∧ s.stw = some w ∧ s.endb = some e := by
  have hf := hi.busy_frame hb
  obtain ⟨h, hh⟩ := Option.isSome_iff_exists.1 (hi.hdr_held.trans (hi.frame_has_header hf))
  obtain ⟨w, hw⟩ := Option.isSome_iff_exists.1 (hi.stw_held.trans hf)
  obtain ⟨e, he⟩ := Option.isSome_iff_exists.1 (hi.endb_held.trans hf)
  exact ⟨h, w, e, hh, hw, he⟩

/-- While a train runs, the frame the serializer reads is that of the registers, whatever was drawn (R20). -/
theorem State.Inv.frameRead_congr {s t : State} (hi : s.Inv) (hb : s.busy = true) (hhdr : t.hdr = s.hdr)
    (hstw : t.stw = s.stw) (hendb : t.endb = s.endb) : frameRead t = frameRead s := by
  obtain ⟨h, w, e, hh, hw, he⟩ := hi.exists_frame hb
  rw [(frameRead_of_held hh hw he).1, (frameRead_of_held (hhdr.trans hh) (hstw.trans hw) (hendb.trans he)).1]

/-- Only a successful `SEND` makes an idle block busy (R81, R109). -/
theorem exec_makes_busy {i : Instr} {s t : State} (hb : s.busy = false) (h : exec i s = .next t) (ht : t.busy = true) :
    i = .send ∧ t = startTrain s := by
  obtain ⟨hb', -⟩ | ⟨-, ⟨f, rfl⟩ | ⟨c, -, rfl⟩ | ⟨c, w, -, -, rfl⟩ | ⟨hi, -, ht'⟩⟩ := exec_cases h
  case inr.inr.inr.inr => exact ⟨hi, ht'⟩
  case inl => exact absurd (hb.symm.trans hb') (by decide)
  all_goals exact absurd (hb.symm.trans ht) (by decide)

theorem acceptWord_makes_busy {w : Word} {s t : State} (hb : s.busy = false) (h : acceptWord w s = .next t)
    (ht : t.busy = true) : decode w = .ok .send ∧ t = recordAccept w (startTrain s) := by
  obtain ⟨_, -, rfl⟩ | ⟨i, u, hi, hu, rfl⟩ := acceptWord_cases h
  · exact absurd (hb.symm.trans ht) (by decide)
  · obtain ⟨rfl, rfl⟩ := exec_makes_busy hb hu ht
    exact ⟨hi, rfl⟩

/-- The record of a successful `SEND` starts the train anew (R23). -/
theorem currentTrain_after_send {w : Word} (hw : decode w = .ok .send) (s : State) :
    currentTrain (recordAccept w (startTrain s)).history = [] := by
  have hstarts : (Event.accepted w .errNone).startsTrain = true := by
    rw [← encodeOfDecodeIsTheWord w .send hw]
    rfl
  rw [recordAccept_history, currentTrain_concat]
  exact if_pos hstarts

/-- An event that takes the slots before `SLOT` of a running train to those before the new `SLOT` keeps the property. -/
theorem TrainSoFar.of_event {s t : State} (h : TrainSoFar s) (hi : s.Inv) (hb : s.busy = true) (hhdr : t.hdr = s.hdr)
    (hstw : t.stw = s.stw) (hendb : t.endb = s.endb) {e : Event} (hhist : t.history = s.history ++ [e])
    (hext : extendTrain ((serialize (frameRead s)).take s.slot.val) e = (serialize (frameRead s)).take t.slot.val) :
    TrainSoFar t := by
  intro _
  rw [hi.frameRead_congr hb hhdr hstw hendb, hhist, currentTrain_concat, h hb, hext]

/-- A register read adds no slot and draws nothing that a running train shows. -/
theorem TrainSoFar.readPort {s : State} (h : TrainSoFar s) (hi : s.Inv) (i : BitVec 2) : TrainSoFar (readPort i s) := by
  obtain ⟨d, v, hread⟩ := readPort_eq i s
  rw [hread]
  intro hb
  exact h.of_event hi hb rfl rfl rfl rfl rfl hb

/-- The serializer's step appends the next slot of the train. -/
theorem TrainSoFar.serializerStep {s : State} (h : TrainSoFar s) (hi : s.Inv) (hb : s.busy = true) :
    TrainSoFar (serializerStep s) := by
  obtain ⟨-, hser⟩ | ⟨hslot, hser⟩ := serializerStep_cases s
  · rw [hser]
    exact nofun
  · rw [hser]
    refine h.of_event hi hb rfl rfl rfl rfl ?_
    rw [slot_succ_val hslot, take_succ_serialize _ s.slot.isLt]
    rfl

theorem TrainSoFar.acceptWord {w : Word} {s t : State} (hb : s.busy = false) (h : acceptWord w s = .next t) :
    TrainSoFar t := by
  intro ht
  obtain ⟨hw, rfl⟩ := acceptWord_makes_busy hb h ht
  exact currentTrain_after_send hw s

theorem TrainSoFar.proceed {s t : State} (h : TrainSoFar s) (hi : s.Inv) (hp : proceed s = .next t) : TrainSoFar t := by
  obtain ⟨hb, rfl⟩ | ⟨hb, w, -, hw⟩ | ⟨-, -, rfl⟩ := proceed_cases hp
  · exact h.serializerStep hi hb
  · exact .acceptWord hb hw
  · exact h

/-- Settles O39: a read adds no slot, a reset ends the train, and the block's own moves extend or start it. -/
theorem everyStepKeepsTheTrain : Obligations.EveryStepKeepsTheTrain := by
  intro s t hi h hstep
  have hmoves (ms : List HostMove) : TrainSoFar { s with moves := ms } := h
  obtain ⟨i, ms, -, rfl⟩ | ⟨ms, -, rfl⟩ | ⟨s', hs', hp⟩ := step_cases hstep
  · exact (hmoves ms).readPort (hi.with_moves ms) i
  · exact nofun
  · obtain ⟨ms, rfl⟩ := hs'.eq_with_moves
    exact (hmoves ms).proceed (hi.with_moves ms) hp

/-! ### A whole train (R82, R84) -/

/-- `s` after the slots of `f` before slot `k` have been emitted. -/
def State.atSlot (s : State) (f : BitVec 72) (k : Fin 147) : State :=
  { s with slot := k, history := s.history ++ ((serialize f).take k.val).map Event.emitted }

/-- The record after slot `k` holds one slot more of the train. -/
theorem atSlot_history_concat (s : State) (f : BitVec 72) (k : Fin 147) :
    (s.atSlot f k).history ++ [.emitted (slotAt f k.val)] =
      s.history ++ ((serialize f).take (k.val + 1)).map Event.emitted := by
  rw [take_succ_serialize f k.isLt, List.map_append, ← List.append_assoc]
  rfl

theorem atSlot_zero {s : State} (hslot : s.slot = 0) (f : BitVec 72) : s.atSlot f 0 = s := by
  cases s
  simp_all [State.atSlot]

/-- A run that reaches a state has reached one after its first step. -/
theorem exists_step_of_run {s t : State} {n : Nat} (h : core.run (n + 1) s = .next t) :
    ∃ s', step s = .next s' ∧ core.run n s' = .next t := by
  simp only [Host.Core.run] at h
  split at h
  · next s' hs => exact ⟨s', hs, h⟩
  all_goals cases h

/-- A run of one step more. -/
theorem run_concat {s t u : State} {n : Nat} (h : core.run n s = .next t) (hstep : step t = .next u) :
    core.run (n + 1) s = .next u := by
  induction n generalizing s with
  | zero =>
    cases h
    exact run_succ 0 hstep
  | succ n ih =>
    obtain ⟨s', hs, h'⟩ := exists_step_of_run h
    exact (run_succ _ hs).trans (ih h')

section Train

variable {s : State} {h w : Word} {e : Byte}

theorem step_atSlot (hm : s.moves = []) (hb : s.busy = true) (hh : s.hdr = some h) (hw : s.stw = some w)
    (he : s.endb = some e) (k : Fin 147) :
    step (s.atSlot (h ++ w ++ e) k) = .next
      (if k.val = 146 then
        { s with busy := false, slot := 0, history := s.history ++ (serialize (h ++ w ++ e)).map Event.emitted }
      else s.atSlot (h ++ w ++ e) (k + 1)) := by
  have hstep := serializerStepEmitsOneSlot (s.atSlot (h ++ w ++ e) k) h w e (.inl hm) hb hh hw he
  have hmoves : (s.atSlot (h ++ w ++ e) k).moves.tail = s.moves := by
    change s.moves.tail = s.moves
    rw [hm, List.tail_nil]
  have hslot : (s.atSlot (h ++ w ++ e) k).slot = k := rfl
  rw [hstep, hslot, hmoves, atSlot_history_concat]
  split
  · next hk =>
    rw [hk, List.take_of_length_le (serialize_length _).le]
    rfl
  · next hk =>
    rw [← slot_succ_val hk]
    rfl

theorem run_to_slot (hm : s.moves = []) (hb : s.busy = true) (hslot : s.slot = 0) (hh : s.hdr = some h)
    (hw : s.stw = some w) (he : s.endb = some e) (n : Nat) (hn : n < 147) :
    core.run n s = .next (s.atSlot (h ++ w ++ e) ⟨n, hn⟩) := by
  induction n with
  | zero => exact congrArg _ (atSlot_zero hslot _).symm
  | succ n ih =>
    have hlt : n < 147 := by omega
    have hk : (⟨n, hlt⟩ : Fin 147).val ≠ 146 := by
      change n ≠ 146
      omega
    have hnext : (⟨n, hlt⟩ + 1 : Fin 147) = ⟨n + 1, hn⟩ := Fin.ext (slot_succ_val hk)
    have hstep := step_atSlot hm hb hh hw he ⟨n, hlt⟩
    rw [if_neg hk, hnext] at hstep
    exact run_concat (ih hlt) hstep

end Train

/-- Settles O42: step by step to slot 146, and one step more. -/
theorem aTrainIsSerializeOfTheFrame : Obligations.ATrainIsSerializeOfTheFrame := by
  intro s h w e hm hb hslot hh hw he
  have hrun := run_to_slot hm hb hslot hh hw he
  refine ⟨?_, fun n hn => ⟨_, hrun n hn, hb, rfl⟩⟩
  have hlast := step_atSlot hm hb hh hw he ⟨146, by decide⟩
  rw [if_pos rfl, ← hslot] at hlast
  exact run_concat (hrun 146 (by decide)) hlast

/-! ### Levels of the slots (R87 (a)) -/

theorem serialize_getElem?_eq_some_iff (f : BitVec 72) (k : Nat) (p : Pulse) :
    (serialize f)[k]? = some p ↔ k < 147 ∧ slotAt f k = p := by
  rw [serialize_eq_map_slotAt, List.getElem?_map]
  by_cases hk : k < 147
  · rw [List.getElem?_range hk, Option.map_some, Option.some.injEq, and_iff_right hk]
  · simp [hk]

theorem slotAt_level_eq_mark_iff (f : BitVec 72) (k : Nat) : (slotAt f k).level = .mark ↔ k % 2 = 0 := by
  unfold slotAt
  split_ifs <;> simp_all [lastSlot]

/-- Settles O46. -/
theorem trainAlternatesMarksAndSpaces : Obligations.TrainAlternatesMarksAndSpaces := by
  refine fun f => ⟨serialize_length f, fun k p hp => ?_⟩
  obtain ⟨hk, rfl⟩ := (serialize_getElem?_eq_some_iff f k p).1 hp
  refine ⟨slotAt_level_eq_mark_iff f k, fun heven hfirst hlast => ?_⟩
  obtain ⟨i, rfl⟩ : ∃ i, k = 2 + 2 * i := ⟨k / 2 - 1, by omega⟩
  rw [slotAt_bitMark f (by omega), tBitMark]

/-! ### Where two trains differ (R87 (c), (d)) -/

/-- A slot is fixed, or it is the space of one bit. -/
theorem slot_fixed_or_bitSpace {k : Nat} (hk : k < 147) :
    (∀ f g, slotAt f k = slotAt g k) ∨ ∃ b, b < 72 ∧ k = 3 + 2 * (71 - b) := by
  by_cases hfixed : k = 0 ∨ k = 1 ∨ k = lastSlot ∨ k % 2 = 0
  · left
    intro f g
    unfold slotAt
    obtain h | h | h | h := hfixed <;> simp [h]
  · right
    unfold lastSlot at hfixed
    exact ⟨71 - (k - 3) / 2, by omega, by omega⟩

theorem slotAt_bitSpace_ne_iff (f g : BitVec 72) {b : Nat} (hb : b < 72) :
    slotAt f (3 + 2 * (71 - b)) ≠ slotAt g (3 + 2 * (71 - b)) ↔ f.getLsbD b ≠ g.getLsbD b := by
  rw [slotAt_bitSpace f (by omega), slotAt_bitSpace g (by omega), show 71 - (71 - b) = b by omega]
  cases f.getLsbD b <;> cases g.getLsbD b <;> decide

/-- Settles O47: only the space of a bit depends on the frame, and on that bit alone. -/
theorem trainsDifferWhereTheFramesDiffer : Obligations.TrainsDifferWhereTheFramesDiffer := by
  intro f g k hk
  rw [serialize_getElem? f hk, serialize_getElem? g hk, Ne, Option.some.injEq]
  constructor
  · intro hne
    obtain hfixed | ⟨b, hb, rfl⟩ := slot_fixed_or_bitSpace hk
    · exact absurd (hfixed f g) hne
    · exact ⟨b, hb, (slotAt_bitSpace_ne_iff f g hb).1 hne, rfl⟩
  · rintro ⟨b, hb, hne, rfl⟩
    exact (slotAt_bitSpace_ne_iff f g hb).2 hne

/-- Two frames that differ only in header bits 12 and 4 differ in bits 52 and 44. -/
theorem frame_bits_differ_iff {h h' : Word} (hx : h ^^^ h' = (1#32 <<< 12) ||| (1#32 <<< 4)) (w : Word) (e : Byte)
    {b : Nat} (hb : b < 72) :
    (Frame.bits ⟨h, w, e⟩).getLsbD b ≠ (Frame.bits ⟨h', w, e⟩).getLsbD b ↔ b = 52 ∨ b = 44 := by
  have hxor : Frame.bits ⟨h, w, e⟩ ^^^ Frame.bits ⟨h', w, e⟩ = (1#72 <<< 52) ||| (1#72 <<< 44) := by
    rw [Frame.bits, Frame.bits, BitVec.xor_append, BitVec.xor_append, hx, BitVec.xor_self, BitVec.xor_self]
    rfl
  rw [← Bool.xor_iff_ne, ← BitVec.getLsbD_xor, hxor]
  revert b
  decide

theorem trains_differ_in_slots_41_57 {h h' : Word} (hx : h ^^^ h' = (1#32 <<< 12) ||| (1#32 <<< 4)) (w : Word)
    (e : Byte) (k : Nat) :
    (serialize (Frame.bits ⟨h, w, e⟩))[k]? ≠ (serialize (Frame.bits ⟨h', w, e⟩))[k]? ↔ k = 41 ∨ k = 57 := by
  by_cases hk : k < 147
  · rw [trainsDifferWhereTheFramesDiffer _ _ k hk]
    constructor
    · rintro ⟨b, hb, hne, rfl⟩
      have hbit := (frame_bits_differ_iff hx w e hb).1 hne
      omega
    · rintro (rfl | rfl)
      · exact ⟨52, by decide, (frame_bits_differ_iff hx w e (by decide)).2 (.inl rfl), rfl⟩
      · exact ⟨44, by decide, (frame_bits_differ_iff hx w e (by decide)).2 (.inr rfl), rfl⟩
  · have hend (f : BitVec 72) : (serialize f)[k]? = none :=
      List.getElem?_eq_none ((serialize_length f).trans_le (Nat.le_of_not_lt hk))
    rw [hend, hend]
    exact iff_of_false (fun hne => hne rfl) (by omega)

/-- Settles O54: the two units' headers differ in bits 12 and 4 (R70 (f)). -/
theorem unitsDifferInSlots41And57 : Obligations.UnitsDifferInSlots41And57 := fun w e k =>
  ⟨trains_differ_in_slots_41_57 fixSwingHeaderOf_units_differ w e k,
    trains_differ_in_slots_41_57 mftHeaderOf_units_differ w e k⟩

/-! ### The text of a train (R56, R86) -/

theorem render_append (p q : List Pulse) : render (p ++ q) = render p ++ render q := List.flatMap_append

/-- The two tokens of a bit. -/
theorem render_bitPulses (b : Bool) : render (bitPulses b) =
    if b then ['+', '5', '9', '1', ' ', '-', '1', '6', '4', '3', ' ']
    else ['+', '5', '9', '1', ' ', '-', '5', '9', '1', ' '] := by
  cases b <;> decide

theorem render_bitPulses_length (b : Bool) : (render (bitPulses b)).length = 10 + b.toNat := by
  cases b <;> decide

/-- The text of a train in three parts: framing tokens, tokens of the bits, trailing token. -/
theorem render_serialize (f : BitVec 72) : render (serialize f) =
    ['+', '4', '4', '9', '6', ' ', '-', '4', '4', '1', '4', ' ']
      ++ (List.range 72).flatMap (fun i => render (bitPulses (f.getLsbD (71 - i)))) ++ ['+', '6', '0', '0', ' '] := by
  have hframing : render [⟨.mark, tHdrMark⟩, ⟨.space, tHdrSpace⟩] =
      ['+', '4', '4', '9', '6', ' ', '-', '4', '4', '1', '4', ' '] := by decide
  have htrailing : render [⟨.mark, tTrailMark⟩] = ['+', '6', '0', '0', ' '] := by decide
  rw [serialize, render_append, render_append, hframing, htrailing, frameBits, render, List.flatMap_assoc]
  rfl

/-- Ten characters for every bit and one more for every one. -/
theorem render_bits_length (bit : Nat → Bool) (l : List Nat) :
    (l.flatMap fun i => render (bitPulses (bit i))).length = 10 * l.length + l.countP bit := by
  induction l with
  | nil => rfl
  | cons i l ih =>
    rw [List.flatMap_cons, List.length_append, render_bitPulses_length, ih, List.length_cons, List.countP_cons]
    cases bit i <;> simp <;> omega

/-- Counting the ones from bit 71 down. -/
theorem countP_bits_eq_popcount (f : BitVec 72) : (List.range 72).countP (fun i => f.getLsbD (71 - i)) = popcount f := by
  have hrev : (List.range 72).map (71 - ·) = (List.range 72).reverse := rfl
  rw [popcount, ← List.countP_reverse, ← hrev, List.countP_map]
  rfl

/-- Settles O51. -/
theorem textOfATrain : Obligations.TextOfATrain := by
  refine fun f => ⟨?_, ?_⟩
  · simp only [render_serialize, render_bitPulses]
  · rw [render_serialize, List.length_append, List.length_append, render_bits_length, countP_bits_eq_popcount,
      List.length_range]
    simp only [List.length_cons, List.length_nil]
    omega

/-- The tokens of a one and of a zero part at their seventh character. -/
theorem render_bitPulses_append_inj {a b : Bool} {x y : List Char}
    (h : render (bitPulses a) ++ x = render (bitPulses b) ++ y) : a = b ∧ x = y := by
  have hseventh (c : Bool) (z : List Char) :
      (render (bitPulses c) ++ z)[6]? = some (if c then '1' else '5') := by cases c <;> rfl
  have hinj : ∀ a b : Bool, some (if a then '1' else '5') = some (if b then '1' else '5') → a = b := by decide
  obtain rfl := hinj a b ((hseventh a x).symm.trans ((congrArg (·[6]?) h).trans (hseventh b y)))
  exact ⟨rfl, List.append_cancel_left h⟩

theorem bits_eq_of_render_eq {p q : Nat → Bool} {l : List Nat}
    (h : (l.flatMap fun i => render (bitPulses (p i))) = l.flatMap fun i => render (bitPulses (q i))) :
    ∀ i ∈ l, p i = q i := by
  induction l with
  | nil => exact nofun
  | cons i l ih =>
    rw [List.flatMap_cons, List.flatMap_cons] at h
    obtain ⟨hi, hl⟩ := render_bitPulses_append_inj h
    exact List.forall_mem_cons.2 ⟨hi, ih hl⟩

theorem render_serialize_injective : Function.Injective (render ∘ serialize) := by
  intro f g h
  simp only [Function.comp_apply, render_serialize, List.append_left_inj, List.append_right_inj] at h
  refine BitVec.eq_of_getLsbD_eq fun b hb => ?_
  have hbit := bits_eq_of_render_eq h (71 - b) (List.mem_range.2 (by omega))
  rwa [show 71 - (71 - b) = b by omega] at hbit

/-- Settles O48: two trains with different texts are different. -/
theorem serializeAndRenderAreInjective : Obligations.SerializeAndRenderAreInjective :=
  ⟨render_serialize_injective.of_comp, render_serialize_injective⟩

/-! ### The header in the train (R87 (e), (f)) -/

/-- The upper 32 bits of a frame are its header (R20). -/
theorem frame_getLsbD_header (h w : Word) (e : Byte) {i : Nat} (hi : i < 32) :
    (h ++ w ++ e).getLsbD (71 - i) = h.getLsbD (31 - i) := by
  rw [BitVec.getLsbD_append, if_neg (by omega), BitVec.getLsbD_append, if_neg (by omega),
    show 71 - i - 8 - 32 = 31 - i by omega]

/-- The first slots of a train: the framing pair and the pairs of the first `n` bits. -/
theorem take_serialize (f : BitVec 72) {n : Nat} (hn : n ≤ 72) : (serialize f).take (2 + 2 * n) =
    [⟨.mark, tHdrMark⟩, ⟨.space, tHdrSpace⟩] ++ (List.range n).flatMap (fun i => bitPulses (f.getLsbD (71 - i))) := by
  rw [flatMap_bitPulses_eq_map_slotAt f hn, serialize_eq_map_slotAt, ← List.map_take, List.take_range,
    Nat.min_eq_left (by omega), List.range_add, List.map_append, List.map_map]
  rfl

/-- The first byte of a legal header is 0xF2 (R68 (a)). -/
theorem HeaderOK.first_byte {h : Word} (hok : HeaderOK h) :
    (List.range 8).map (fun i => h.getLsbD (31 - i)) = [true, true, true, true, false, false, true, false] := by
  have hbit : ∀ i ∈ List.range 8, h.getLsbD (31 - i) = (0xF20D#16).getLsbD (15 - i) := by
    intro i hi
    rw [List.mem_range] at hi
    rw [← hok.1, BitVec.getLsbD_extractLsb', decide_eq_true (by omega), Bool.true_and,
      show 16 + (15 - i) = 31 - i by omega]
  rw [List.map_congr_left hbit]
  decide

/-- Settles O49: the first eight bits of a built frame are the first byte of a legal header. -/
theorem builtTrainsBeginWithTheHeaderByte : Obligations.BuiltTrainsBeginWithTheHeaderByte := by
  intro f hf
  have hbits : (List.range 8).map (fun i => f.bits.getLsbD (71 - i)) =
      [true, true, true, true, false, false, true, false] := by
    rw [← HeaderOK.first_byte hf.headerOK]
    refine List.map_congr_left fun i hi => frame_getLsbD_header f.hdr f.stw f.endb ?_
    rw [List.mem_range] at hi
    omega
  rw [← hbits, List.flatMap_map]
  exact take_serialize f.bits (n := 8) (by decide)

/-- Reading the bits of `x` from bit `w - 1` down gives its upper bits as a number. -/
theorem foldl_testBit (x w : Nat) {k : Nat} (hk : k ≤ w) (hx : x < 2 ^ w) :
    (List.range k).foldl (fun n i => 2 * n + (x.testBit (w - 1 - i)).toNat) 0 = x / 2 ^ (w - k) := by
  induction k with
  | zero => exact (Nat.div_eq_of_lt hx).symm
  | succ k ih =>
    rw [List.range_succ, List.foldl_append, ih (by omega), List.foldl_cons, List.foldl_nil, Nat.toNat_testBit,
      show w - 1 - k = w - (k + 1) by omega, show w - k = w - (k + 1) + 1 by omega, pow_succ, ← Nat.div_div_eq_div_mul]
    exact Nat.div_add_mod _ 2

/-- Slot `3 + 2 * i` of a train reads as header bit `31 - i`. -/
theorem headerReadBack_serialize (h w : Word) (e : Byte) : headerReadBack (serialize (h ++ w ++ e)) = h.toNat := by
  have hfold := foldl_testBit h.toNat 32 (Nat.le_refl 32) h.isLt
  rw [Nat.sub_self, pow_zero, Nat.div_one] at hfold
  rw [headerReadBack, ← hfold]
  refine List.foldl_ext _ _ _ fun n i hi => ?_
  rw [List.mem_range] at hi
  rw [serialize_getElem? _ (by omega), slotAt_bitSpace _ (by omega), frame_getLsbD_header h w e hi,
    BitVec.testBit_toNat]
  cases h.getLsbD (31 - i) <;> rfl

/-- Settles O50: what is read back is the header, which in a built frame is legal. -/
theorem headerReadsBackFromTheTrain : Obligations.HeaderReadsBackFromTheTrain := by
  refine ⟨headerReadBack_serialize, fun f hf => ?_⟩
  rw [Frame.bits, headerReadBack_serialize, BitVec.ofNat_toNat, BitVec.setWidth_eq]
  exact hf.headerOK

end Sys2Proof.Machine

/-! ## Rejections, acceptance and the pulse port (R101 to R109) -/

namespace Sys2Proof.Machine

open Protocol

/-! ### The pulse port carries whole trains (R109, R35 (e)) -/

/-- The slots of the train running that have been emitted: none while the block is idle. -/
def State.runningSlots (s : State) : List Pulse :=
  if s.busy then (serialize (frameRead s)).take s.slot.val else []

theorem runningSlots_idle {s : State} (hb : s.busy = false) : s.runningSlots = [] := by
  rw [State.runningSlots, hb]
  rfl

theorem runningSlots_busy {s : State} (hb : s.busy = true) :
    s.runningSlots = (serialize (frameRead s)).take s.slot.val := if_pos hb

/-- The frame in the registers while a train runs is one the Frame Builder made (R85). -/
theorem State.Inv.exists_built_frame {s : State} (hi : s.Inv) (hb : s.busy = true) :
    ∃ f, Built f ∧ frameRead s = f.bits := by
  obtain ⟨h, w, e, hh, hw, he⟩ := hi.exists_frame hb
  exact ⟨_, hi.frame_built h w e hh hw he, (frameRead_of_held hh hw he).1⟩

/-- An event keeps the property when its slot, after those of the train running, completes the trains `done` and leaves
the slots running then. -/
theorem OnlyWholeTrains.of_event {s t : State} (h : OnlyWholeTrains s) {e : Event} (hhist : t.history = s.history ++ [e])
    {done : List Frame} (hdone : ∀ f ∈ done, Built f)
    (hslots : s.runningSlots ++ emittedSlots [e] = done.flatMap (fun f => serialize f.bits) ++ t.runningSlots) :
    OnlyWholeTrains t := by
  intro hreset
  rw [hhist, List.mem_append, not_or] at hreset
  obtain ⟨sent, hsent, hemitted⟩ := h hreset.1
  refine ⟨sent ++ done, List.forall_mem_append.2 ⟨hsent, hdone⟩, ?_⟩
  calc emittedSlots t.history
      = emittedSlots s.history ++ emittedSlots [e] := by rw [hhist, emittedSlots, List.filterMap_append]; rfl
    _ = sent.flatMap (fun f => serialize f.bits) ++ (s.runningSlots ++ emittedSlots [e]) := by
      rw [hemitted, List.append_assoc]; rfl
    _ = (sent ++ done).flatMap (fun f => serialize f.bits) ++ t.runningSlots := by
      rw [hslots, List.flatMap_append, List.append_assoc]

/-- An event that completes no train. -/
theorem OnlyWholeTrains.of_event_in_train {s t : State} (h : OnlyWholeTrains s) {e : Event}
    (hhist : t.history = s.history ++ [e]) (hslots : s.runningSlots ++ emittedSlots [e] = t.runningSlots) :
    OnlyWholeTrains t :=
  h.of_event hhist (done := []) nofun hslots

/-- While a train runs, its frame is that of the registers, whatever is drawn or recorded and whichever slot is reached. -/
theorem State.Inv.runningSlots_update {s : State} (hi : s.Inv) (hb : s.busy = true) (d : Nat) (hist : List Event)
    (k : Fin 147) : { s with draws := d, history := hist, slot := k }.runningSlots =
      (serialize (frameRead s)).take k.val := by
  rw [← hi.frameRead_congr (t := { s with draws := d, history := hist, slot := k }) hb rfl rfl rfl]
  exact runningSlots_busy hb

/-- A register read emits nothing and changes nothing that a running train shows. -/
theorem OnlyWholeTrains.readPort {s : State} (h : OnlyWholeTrains s) (hi : s.Inv) (i : BitVec 2) :
    OnlyWholeTrains (readPort i s) := by
  obtain ⟨d, v, hread⟩ := readPort_eq i s
  rw [hread]
  refine h.of_event_in_train rfl ((List.append_nil _).trans (Eq.symm ?_))
  rcases Bool.eq_false_or_eq_true s.busy with hb | hb
  · exact (hi.runningSlots_update hb d _ s.slot).trans (runningSlots_busy hb).symm
  · rw [runningSlots_idle hb]
    exact runningSlots_idle hb

/-- The serializer's step emits the next slot of the train, and slot 146 completes it. -/
theorem OnlyWholeTrains.serializerStep {s : State} (h : OnlyWholeTrains s) (hi : s.Inv) (hb : s.busy = true) :
    OnlyWholeTrains (serializerStep s) := by
  have hnext : s.runningSlots ++ [slotAt (frameRead s) s.slot.val] = (serialize (frameRead s)).take (s.slot.val + 1) := by
    rw [runningSlots_busy hb, take_succ_serialize _ s.slot.isLt]
  obtain ⟨hslot, hser⟩ | ⟨hslot, hser⟩ := serializerStep_cases s <;> rw [hser]
  · obtain ⟨f, hf, hread⟩ := hi.exists_built_frame hb
    refine h.of_event rfl (List.forall_mem_singleton.2 hf) (hnext.trans ?_)
    rw [hslot, List.take_of_length_le (serialize_length _).le, hread, List.flatMap_singleton]
    exact (List.append_nil _).symm
  · refine h.of_event_in_train rfl (hnext.trans ?_)
    rw [← slot_succ_val hslot]
    exact (hi.runningSlots_update hb _ _ _).symm

/-- After a word is accepted no slot of a train has been emitted yet, for a `SEND` starts at slot 0 (R81). -/
theorem runningSlots_acceptWord {w : Word} {s t : State} (hb : s.busy = false) (h : acceptWord w s = .next t) :
    t.runningSlots = [] := by
  cases ht : t.busy with
  | true =>
    obtain ⟨-, rfl⟩ := acceptWord_makes_busy hb h ht
    rfl
  | false => exact runningSlots_idle ht

theorem OnlyWholeTrains.acceptWord {w : Word} {s t : State} (h : OnlyWholeTrains s) (hb : s.busy = false)
    (hw : acceptWord w s = .next t) : OnlyWholeTrains t := by
  obtain ⟨u, ht, -, -, hhist⟩ := acceptWord_records hw
  have hrecord : t.history = s.history ++ [.accepted w u.err] := by rw [ht, recordAccept_history, hhist]
  refine h.of_event_in_train hrecord ?_
  rw [runningSlots_idle hb, runningSlots_acceptWord hb hw]
  rfl

theorem OnlyWholeTrains.proceed {s t : State} (h : OnlyWholeTrains s) (hi : s.Inv) (hp : proceed s = .next t) :
    OnlyWholeTrains t := by
  obtain ⟨hb, rfl⟩ | ⟨hb, w, -, hw⟩ | ⟨-, -, rfl⟩ := proceed_cases hp
  · exact h.serializerStep hi hb
  · exact h.acceptWord hb hw
  · exact h

/-- Settles O40: a read emits nothing, a reset leaves nothing to show, the serializer extends the train running and at slot
146 completes it, and accepting a word emits nothing. -/
theorem onlyWholeTrainsOfBuiltFramesAreEmitted : Obligations.OnlyWholeTrainsOfBuiltFramesAreEmitted := by
  intro s t hi h hstep
  have hmoves (ms : List HostMove) : OnlyWholeTrains { s with moves := ms } := h
  obtain ⟨i, ms, -, rfl⟩ | ⟨ms, -, rfl⟩ | ⟨s', hs', hp⟩ := step_cases hstep
  · exact (hmoves ms).readPort (hi.with_moves ms) i
  · intro hreset
    rw [resetBlock_history] at hreset
    exact absurd List.mem_concat_self hreset
  · obtain ⟨ms, rfl⟩ := hs'.eq_with_moves
    exact (hmoves ms).proceed (hi.with_moves ms) hp

/-! ### `InvalidCommand` (R101, R70 (b)) -/

/-- A mode/fan/temperature, fix or swing build commits a built frame or is rejected for its temperature (R65 to R67, R102). -/
theorem exec_frameBuild_cases {i : Instr} {s t : State} (hhdr : ∀ c, i ≠ .hdr c) (hsend : i ≠ .send)
    (hb : s.busy = false) (h : exec i s = .next t) : (∃ f, Built f ∧ t = commit f s) ∨ t = reject .tempRange s := by
  cases i with
  | mft u m sp f v =>
    cases hv : tempOutOfRange v with
    | false =>
      cases (exec_mft_idle_of_inRange u m sp f hv hb).symm.trans h
      obtain ⟨low, high⟩ := (tempOutOfRange_eq_false_iff v).1 hv
      exact .inl ⟨_, .mft u m sp f v low high, rfl⟩
    | true =>
      cases (exec_mft_idle_of_outOfRange u m sp f hv hb).symm.trans h
      exact .inr rfl
  | fix u =>
    cases (exec_fix_idle u hb).symm.trans h
    exact .inl ⟨_, .fix u, rfl⟩
  | swing u =>
    cases (exec_swing_idle u hb).symm.trans h
    exact .inl ⟨_, .swing u, rfl⟩
  | hdr c => exact absurd rfl (hhdr c)
  | send => exact absurd rfl hsend

/-- `SEND` on an idle block succeeds or finds no frame (R81, R104). -/
theorem exec_send_err {s t : State} (hb : s.busy = false) (h : exec .send s = .next t) :
    t.err = .errNone ∨ t.err = .noFrame := by
  cases hf : s.fv with
  | true =>
    cases (exec_send_idle_of_frame hb hf).symm.trans h
    exact .inl rfl
  | false =>
    cases (exec_send_idle_of_noFrame hb hf).symm.trans h
    exact .inr rfl

theorem exec_hdr_err_iff {c : BitVec 16} {s t : State} (hb : s.busy = false) (h : exec (.hdr c) s = .next t) :
    t.err = .invalidCommand ↔ 0xFF < c.toNat := by
  rcases Nat.lt_or_ge 0xFF c.toNat with hc | hc
  · cases (exec_hdr_idle_of_error (buildHeader_of_gt hc) hb).symm.trans h
    exact iff_of_true rfl hc
  · obtain ⟨w, hw, -, -⟩ := (buildHeaderChecksThenPacks c).1 hc
    cases (exec_hdr_idle_of_ok hw hb).symm.trans h
    exact iff_of_false nofun (Nat.not_lt.2 hc)

/-- `buildHeader` puts the command byte above the checksum (R60). -/
theorem byte2_mftHeaderOf (u : AcUnit) : byte2 (mftHeaderOf u) = commandByte u familyMft := by
  cases u <;> decide

theorem byte2_fixSwingHeaderOf (u : AcUnit) : byte2 (fixSwingHeaderOf u) = commandByte u familyFixSwing := by
  cases u <;> decide

theorem Built.byte2_hdr {f : Frame} (hf : Built f) :
    byte2 f.hdr = 0x03#8 ∨ byte2 f.hdr = 0x13#8 ∨ byte2 f.hdr = 0x01#8 ∨ byte2 f.hdr = 0x11#8 := by
  cases hf with
  | mft u =>
    rw [byte2_mftHeaderOf]
    cases u <;> decide
  | fix u | swing u =>
    rw [byte2_fixSwingHeaderOf]
    cases u <;> decide

/-- Settles O19: `HDR` by its value, `SEND` by its two outcomes, the builds by the frame they commit or their temperature. -/
theorem invalidCommandOnlyFromHdr : Obligations.InvalidCommandOnlyFromHdr := by
  intro i s t hb h
  refine ⟨?_, fun hhdr => ?_, fun hhdr hsend w hw => ?_⟩
  · rintro c rfl
    exact exec_hdr_err_iff hb h
  · by_cases hsend : i = .send
    · subst hsend
      obtain herr | herr := exec_send_err hb h <;> rw [herr] <;> decide
    · obtain ⟨f, -, rfl⟩ | rfl := exec_frameBuild_cases hhdr hsend hb h <;> exact nofun
  · obtain ⟨f, hf, rfl⟩ | rfl := exec_frameBuild_cases hhdr hsend hb h
    · cases hw
      exact hf.byte2_hdr
    · cases hw

/-! ### Rejections (R103, R106) -/

/-- An operation that ends with an error has rejected its command (R106). -/
theorem exec_rejects_of_err {i : Instr} {s t : State} (hb : s.busy = false) (h : exec i s = .next t)
    (herr : t.err ≠ .errNone) : ∃ c, t = reject c s := by
  obtain ⟨hb', -⟩ | ⟨-, ⟨f, rfl⟩ | ⟨c, -, rfl⟩ | ⟨c, w, -, -, rfl⟩ | ⟨-, -, rfl⟩⟩ := exec_cases h
  case inl => exact absurd (hb.symm.trans hb') (by decide)
  case inr.inr.inl => exact ⟨c, rfl⟩
  all_goals exact absurd rfl herr

/-- Settles O25: the effect is `reject`, after which `SEND` finds no frame and `FIX` commits one as on any idle block. -/
theorem rejectionLeavesNothingToSend : Obligations.RejectionLeavesNothingToSend := by
  intro i s t hb h herr
  obtain ⟨c, rfl⟩ := exec_rejects_of_err hb h herr
  exact ⟨rfl, exec_send_idle_of_noFrame hb rfl, fun u => ⟨_, exec_fix_idle u hb, rfl, rfl⟩⟩

theorem decode_error_of_not_wordLegal {w : Word} (hw : wordLegal w = false) : ∃ e, decode w = .error e := by
  cases hd : decode w with
  | error e => exact ⟨e, rfl⟩
  | ok i => exact absurd (hw.symm.trans (wordLegal_of_decode hd)) (by decide)

theorem acceptWord_illegal {w : Word} (hw : wordLegal w = false) (s : State) :
    acceptWord w s = .next (recordAccept w (reject .illegalWord s)) := by
  obtain ⟨e, he⟩ := decode_error_of_not_wordLegal hw
  rw [acceptWord, he]

/-- An idle block that proceeds accepts the word presented. -/
theorem proceed_of_presented {s : State} {w : Word} (hb : s.busy = false) (hw : presentedWord s = some w) :
    proceed s = acceptWord w s := by
  rw [proceed, hb, hw]
  rfl

/-- With no move left or with `proceed` next, the step of an idle block accepts the word presented. -/
theorem step_eq_acceptWord {s : State} {w : Word} (hm : s.moves = [] ∨ ∃ ms, s.moves = .proceed :: ms)
    (hb : s.busy = false) (hw : s.program[s.pc]? = some w) :
    step s = acceptWord w { s with moves := s.moves.tail } :=
  (step_of_proceed hm).trans (proceed_of_presented (s := { s with moves := s.moves.tail }) hb hw)

/-- Settles O27: a word that is not legal does not decode, and accepting it is `reject` with the record. -/
theorem illegalWordIsRejected : Obligations.IllegalWordIsRejected := fun _ _ hm hb hw hillegal =>
  (step_eq_acceptWord hm hb hw).trans (acceptWord_illegal hillegal _)

/-! ### Acceptance and the pulse port (R109) -/

/-- Settles O33: the record gains the accepted word alone, and only a successful `SEND` starts the serializer. -/
theorem acceptanceEmitsNothing : Obligations.AcceptanceEmitsNothing := by
  intro s t w hm hb hw hstep
  rw [step_eq_acceptWord hm hb hw] at hstep
  have hbusy (ht : t.busy = true) := acceptWord_makes_busy (s := { s with moves := s.moves.tail }) hb hstep ht
  refine ⟨?_, fun herr => ?_, fun ht => (hbusy ht).1⟩
  · obtain ⟨u, rfl, -, -, hhist⟩ := acceptWord_records hstep
    rw [emittedSlots_recordAccept, hhist]
  · refine Bool.eq_false_of_not_eq_true fun ht => ?_
    obtain ⟨-, rfl⟩ := hbusy ht
    exact herr rfl

end Sys2Proof.Machine

/-! ## Reset, the hold of a presented word, air time and the end of a run (R120 to R128) -/

namespace Sys2Proof.Machine

open Protocol

/-! ### Reset (R120, R124) -/

theorem step_of_reset {s : State} {ms : List HostMove} (h : s.moves = .reset :: ms) :
    step s = .next (resetBlock { s with moves := ms }) := by
  rw [step, nextStep, h]
  rfl

/-- Settles O2: what `resetBlock` leaves is the reset state with the host's fields and the record. -/
theorem resetEventRestoresTheBlock : Obligations.ResetEventRestoresTheBlock := fun _ _ hm => step_of_reset hm

/-- Settles O3: the train so far is the first `SLOT` slots of a train of 147, and `SLOT` is at most 146. -/
theorem resetInATrainTruncatesIt : Obligations.ResetInATrainTruncatesIt := by
  intro s t ms htrain hb hm hstep
  cases (step_of_reset hm).symm.trans hstep
  refine ⟨rfl, rfl, rfl, rfl, ?_, ?_, ?_⟩
  · rw [resetBlock_history, emittedSlots_concat, List.append_nil]
  · rw [htrain hb]
    exact List.take_prefix _ _
  · rw [htrain hb, List.length_take, serialize_length]
    omega

/-! ### The rest of a train, from any slot and with a frame held or not (R82, R122) -/

section RestOfTrain

variable {s : State}

theorem step_before_last_slot (hm : s.moves = []) (hb : s.busy = true) (hslot : s.slot.val ≠ 146) :
    ∃ d hist, step s = .next { s with slot := s.slot + 1, draws := d, history := hist } := by
  obtain ⟨hlast, -⟩ | ⟨-, hser⟩ := serializerStep_cases s
  · exact absurd hlast hslot
  · exact ⟨_, _, (step_no_moves hm).trans ((proceed_busy hb).trans (congrArg _ hser))⟩

theorem step_at_last_slot (hm : s.moves = []) (hb : s.busy = true) (hslot : s.slot.val = 146) :
    ∃ d hist, step s = .next { s with busy := false, slot := 0, draws := d, history := hist } := by
  obtain ⟨-, hser⟩ | ⟨hne, -⟩ := serializerStep_cases s
  · exact ⟨_, _, (step_no_moves hm).trans ((proceed_busy hb).trans (congrArg _ hser))⟩
  · exact absurd hslot hne

/-- Up to slot 146 the serializer only advances `SLOT`; the host and the frame registers stand as they are. -/
theorem run_in_train (hm : s.moves = []) (hb : s.busy = true) (n : Nat) (hn : s.slot.val + n < 147) :
    ∃ d hist, core.run n s = .next { s with slot := ⟨s.slot.val + n, hn⟩, draws := d, history := hist } := by
  induction n with
  | zero => exact ⟨s.draws, s.history, rfl⟩
  | succ n ih =>
    have hlt : s.slot.val + n < 147 := by omega
    have hslot : (⟨s.slot.val + n, hlt⟩ : Fin 147).val ≠ 146 := by
      change s.slot.val + n ≠ 146
      omega
    have hnext : (⟨s.slot.val + n, hlt⟩ + 1 : Fin 147) = ⟨s.slot.val + (n + 1), hn⟩ := Fin.ext (slot_succ_val hslot)
    obtain ⟨d, hist, hrun⟩ := ih hlt
    obtain ⟨d', hist', hstep⟩ := step_before_last_slot
      (s := { s with slot := ⟨s.slot.val + n, hlt⟩, draws := d, history := hist }) hm hb hslot
    rw [hnext] at hstep
    exact ⟨d', hist', run_concat hrun hstep⟩

/-- The step at slot 146 ends the train. -/
theorem run_rest_of_train (hm : s.moves = []) (hb : s.busy = true) :
    ∃ d hist, core.run (147 - s.slot.val) s =
      .next { s with busy := false, slot := 0, draws := d, history := hist } := by
  have hlast : s.slot.val + (146 - s.slot.val) = 146 := by omega
  obtain ⟨d, hist, hrun⟩ := run_in_train hm hb (146 - s.slot.val) (by omega)
  obtain ⟨d', hist', hstep⟩ := step_at_last_slot
    (s := { s with slot := ⟨s.slot.val + (146 - s.slot.val), by omega⟩, draws := d, history := hist }) hm hb hlast
  rw [show 147 - s.slot.val = 146 - s.slot.val + 1 by omega]
  exact ⟨d', hist', run_concat hrun hstep⟩

end RestOfTrain

/-- Settles O31: the serializer's steps touch none of the host's fields, so the word presented before the train's end is
the word presented after it. -/
theorem heldWordWaitsForTheTrain : Obligations.HeldWordWaitsForTheTrain := by
  refine fun s w _ hm hb hw => ⟨fun n hn => ?_, ?_⟩
  · obtain ⟨d, hist, hrun⟩ := run_in_train hm hb n (by omega)
    exact ⟨_, hrun, hb, rfl, rfl⟩
  · obtain ⟨d, hist, hrun⟩ := run_rest_of_train hm hb
    exact ⟨_, hrun, rfl, hw, rfl, rfl, rfl, rfl, rfl, rfl, rfl⟩

/-! ### Every run ends (R128) -/

theorem run_add {s t : State} {m : Nat} (n : Nat) (h : core.run m s = .next t) :
    core.run (m + n) s = core.run n t := by
  induction m generalizing s with
  | zero =>
    cases h
    rw [Nat.zero_add]
  | succ m ih =>
    obtain ⟨s', hs, h'⟩ := exists_step_of_run h
    rw [Nat.succ_add, run_succ _ hs, ih h']

/-- No operation faults or is refused (R106, R111). -/
theorem exists_exec (i : Instr) (s : State) : ∃ t, exec i s = .next t := by
  cases i with
  | mft | fix | swing | hdr | send => exact ⟨_, rfl⟩

/-- Every word is accepted, an illegal one by its rejection (R103). -/
theorem exists_acceptWord (w : Word) (s : State) : ∃ t, acceptWord w s = .next t := by
  cases hw : wordLegal w with
  | false => exact ⟨_, acceptWord_illegal hw s⟩
  | true =>
    obtain ⟨i, rfl⟩ := exists_encode_of_wordLegal hw
    obtain ⟨t, ht⟩ := exists_exec i s
    exact ⟨_, acceptWord_encode ht⟩

theorem acceptWord_keeps_moves {w : Word} {s t : State} (h : acceptWord w s = .next t) : t.moves = s.moves := by
  obtain ⟨_, -, rfl⟩ | ⟨i, u, -, hu, rfl⟩ := acceptWord_cases h
  · rfl
  · obtain ⟨-, -, hmoves, -, -⟩ := exec_keeps_host hu
    exact hmoves

/-- The run from `s` has ended after at most `b` steps, the host's list being what it was. -/
def State.EndsWithin (s : State) (b : Nat) : Prop :=
  ∃ (n : Nat) (t : State), n ≤ b ∧ core.run n s = .next t ∧ RunEnded t ∧ t.program = s.program

/-- The steps up to `t` count before those from `t`. -/
theorem State.EndsWithin.of_run {s t : State} {m b c : Nat} (ht : t.EndsWithin b) (hrun : core.run m s = .next t)
    (hprog : t.program = s.program) (hc : m + b ≤ c) : s.EndsWithin c := by
  obtain ⟨n, u, hn, hu, hended, huprog⟩ := ht
  exact ⟨m + n, u, by omega, (run_add n hrun).trans hu, hended, huprog.trans hprog⟩

/-- A train running adds its remaining slots to what the idle block after it needs. -/
theorem endsWithin_of_idle {s : State} {b : Nat} (hm : s.moves = [])
    (hidle : ∀ t : State, t.moves = [] → t.busy = false → t.program = s.program → t.pc = s.pc → t.EndsWithin b) :
    s.EndsWithin (b + if s.busy then 147 - s.slot.val else 0) := by
  cases hb : s.busy with
  | true =>
    obtain ⟨d, hist, hrun⟩ := run_rest_of_train hm hb
    have hafter := hidle { s with busy := false, slot := 0, draws := d, history := hist } hm rfl rfl rfl
    exact hafter.of_run hrun rfl (Nat.add_comm _ _).le
  | false => exact hidle s hm hb rfl rfl

/-- An idle block needs at most 148 steps a word: one to accept it and 147 for the train it may start. -/
theorem idle_endsWithin (k : Nat) {s : State} (hk : s.program.length - s.pc = k) (hm : s.moves = [])
    (hb : s.busy = false) : s.EndsWithin (148 * k) := by
  induction k generalizing s with
  | zero => exact ⟨0, s, Nat.le_refl 0, rfl, ⟨by omega, hb⟩, rfl⟩
  | succ k ih =>
    have hw : presentedWord s = some s.program[s.pc] := List.getElem?_eq_getElem (by omega)
    obtain ⟨t, ht⟩ := exists_acceptWord s.program[s.pc] s
    have hstep : step s = .next t := (step_no_moves hm).trans ((proceed_of_presented hb hw).trans ht)
    have hmoves : t.moves = [] := (acceptWord_keeps_moves ht).trans hm
    obtain ⟨u, rfl, hprog, hpc, -⟩ := acceptWord_records ht
    have hrest := endsWithin_of_idle (b := 148 * k) hmoves fun v hvm hvb hvprog hvpc =>
      ih (by rw [hvprog, hvpc, recordAccept_program, recordAccept_pc, hprog, hpc]; omega) hvm hvb
    refine hrest.of_run (m := 1) (run_succ 0 hstep) hprog ?_
    split <;> omega

/-- Settles O43: the rest of the train running, then the words left on an idle block. -/
theorem everyRunEnds : Obligations.EveryRunEnds := fun _ hm =>
  endsWithin_of_idle hm fun _ htm htb htprog htpc => idle_endsWithin _ (by rw [htprog, htpc]) htm htb

/-! ### Air time (R127) -/

theorem airTime_append (p q : List Pulse) : airTime (p ++ q) = airTime p + airTime q := by
  rw [airTime, List.map_append, List.sum_append]
  rfl

/-- A mark of 591 and a space of 591 or, 1052 longer, of 1643. -/
theorem airTime_bitPulses (b : Bool) : airTime (bitPulses b) = 1182 + 1052 * b.toNat := by
  cases b <;> decide

theorem airTime_bits (bit : Nat → Bool) (l : List Nat) :
    airTime (l.flatMap fun i => bitPulses (bit i)) = 1182 * l.length + 1052 * l.countP bit := by
  induction l with
  | nil => rfl
  | cons i l ih =>
    rw [List.flatMap_cons, airTime_append, airTime_bitPulses, ih, List.length_cons, List.countP_cons]
    cases bit i <;> simp <;> omega

/-- Settles O52: framing pair and trailing mark last 9510, and the 72 bits 1182 each and 1052 more for every one. -/
theorem airTimeOfATrain : Obligations.AirTimeOfATrain := by
  intro f
  have hframing : airTime [⟨.mark, tHdrMark⟩, ⟨.space, tHdrSpace⟩] = 8910 := by decide
  have htrailing : airTime [⟨.mark, tTrailMark⟩] = 600 := by decide
  rw [serialize, airTime_append, airTime_append, hframing, htrailing, airTime_bits, frameBits,
    countP_bits_eq_popcount, List.length_range]
  omega

end Sys2Proof.Machine

/-! ## Total steps, and the model's choices for a busy and for a waiting block (R63, R111, R122) -/

namespace Sys2Proof.Machine

/-! ### The hold of a busy block (log 10) -/

/-- Settles O24: `exec` answers, and of its effects only the hold is possible while `BUSY = 1`. -/
theorem busyBlockHoldsEveryOperation : Obligations.BusyBlockHoldsEveryOperation := by
  intro i s hb
  obtain ⟨t, ht⟩ := exists_exec i s
  obtain ⟨-, rfl⟩ | ⟨hidle, -⟩ := exec_cases ht
  · exact ht
  · exact absurd (hb.symm.trans hidle) (by decide)

/-! ### The wait of an idle block (R111, log 13) -/

theorem proceed_of_not_presented {s : State} (hb : s.busy = false) (hn : presentedWord s = none) :
    proceed s = .next s := by
  rw [proceed, hb, hn]
  rfl

/-- Settles O29: past the end of the host's program no word is presented. -/
theorem idleBlockWaits : Obligations.IdleBlockWaits := fun s hm hb hend =>
  (step_of_proceed hm).trans
    (proceed_of_not_presented (s := { s with moves := s.moves.tail }) hb (List.getElem?_eq_none hend))

/-! ### No fault and no refusal (R106, R111) -/

/-- The block proceeds from every state: it emits a slot, accepts the word presented, or waits. -/
theorem exists_proceed (s : State) : ∃ t, proceed s = .next t := by
  cases hb : s.busy with
  | true => exact ⟨_, proceed_busy hb⟩
  | false =>
    cases hw : presentedWord s with
    | none => exact ⟨_, proceed_of_not_presented hb hw⟩
    | some w =>
      rw [proceed_of_presented hb hw]
      exact exists_acceptWord w s

/-- Settles O28, by the host's next move: with none left or with `proceed` the block proceeds, a read and a reset always
answer. -/
theorem everyStepAnswersANextState : Obligations.EveryStepAnswersANextState := by
  intro s
  cases hm : s.moves with
  | nil =>
    rw [step_no_moves hm]
    exact exists_proceed s
  | cons m ms =>
    cases m with
    | proceed =>
      rw [step_of_proceed (.inr ⟨ms, hm⟩)]
      exact exists_proceed _
    | read i => exact ⟨_, step_of_read hm⟩
    | reset => exact ⟨_, step_of_reset hm⟩

end Sys2Proof.Machine
